-- ==== Sys2Proof/Word.lean ====
section
/-! DEFINITION. The stored bit patterns of the FXU and the conversions between them and the
mathematical integers of the spec's pseudocode (`00_scope.md` R10). -/

namespace Sys2Proof

/-- The contents of one value register, one payload, one `DATA` field: 64 bits (R20, R70, R80). -/
abbrev Word := BitVec 64

/-- A 32-bit pattern: a command word, the engine word, a grid bound, one cell index. -/
abbrev Word32 := BitVec 32

/-- One byte of a packet's transport form (R53). -/
abbrev Byte := BitVec 8

/-- R10 `s64`: the signed reading of a 64-bit pattern. -/
def s64 (u : Word) : Int := u.toInt

/-- R10 `u64`: the 64-bit pattern of an integer, `v mod 2^64`. -/
def u64 (v : Int) : Word := BitVec.ofInt 64 v

/-- R10 `wrap64`: the two's-complement wrap of any integer into `[-2^63, 2^63 - 1]`. -/
def wrap64 (v : Int) : Int := s64 (u64 v)

/-- R10 `s32`: the signed reading of a 32-bit pattern. -/
def s32 (u : Word32) : Int := u.toInt

/-- R10 `u32`: the 32-bit pattern of an integer. -/
def u32 (v : Int) : Word32 := BitVec.ofInt 32 v

end Sys2Proof
end

