-- ==== Sys2Proof/Syntax.lean ====
section
/-! DEFINITION. The commands of FXU-1 (`30_encoding.md` R74): one constructor of `Instr` for each row
of the opcode table, with the operands its format carries (R72), and the pseudo-instructions (R79). -/

namespace Sys2Proof

/-- A value register `f0` .. `f15`: an unsigned 4-bit index (R23, R73). -/
abbrev Reg := Fin 16

/-- The 36 commands. `rd` is the destination register, `rs1` .. `rs4` the sources (R71). The shift
count of `shli` and `shri` is a number, which `WellFormed` holds to the six bits of R73. -/
inductive Instr where
  /-- `LDI fd, #imm` (R100): `imm` is the packet's payload. -/
  | ldi (rd : Reg) (imm : Word)
  /-- `MOV fd, fs1` (R101). -/
  | mov (rd rs1 : Reg)
  /-- `FROMINT fd, fs1` (R102). -/
  | fromint (rd rs1 : Reg)
  /-- `TOINT fd, fs1` (R103). -/
  | toint (rd rs1 : Reg)
  /-- `FROMFRAC fd, fs1, fs2` (R104). -/
  | fromfrac (rd rs1 rs2 : Reg)
  /-- `ADD fd, fs1, fs2` (R111). -/
  | add (rd rs1 rs2 : Reg)
  /-- `SUB fd, fs1, fs2` (R112). -/
  | sub (rd rs1 rs2 : Reg)
  /-- `MUL fd, fs1, fs2` (R113). -/
  | mul (rd rs1 rs2 : Reg)
  /-- `DIV fd, fs1, fs2` (R114). -/
  | div (rd rs1 rs2 : Reg)
  /-- `MOD fd, fs1, fs2` (R115). -/
  | mod (rd rs1 rs2 : Reg)
  /-- `EREM fd, fs1, fs2` (R116). -/
  | erem (rd rs1 rs2 : Reg)
  /-- `FLOOR fd, fs1` (R117). -/
  | floor (rd rs1 : Reg)
  /-- `CEIL fd, fs1` (R118). -/
  | ceil (rd rs1 : Reg)
  /-- `ROUND fd, fs1` (R119). -/
  | round (rd rs1 : Reg)
  /-- `ABS fd, fs1` (R120). -/
  | abs (rd rs1 : Reg)
  /-- `SQRT fd, fs1` (R121). -/
  | sqrt (rd rs1 : Reg)
  /-- `SHLI fd, fs1, #sh` (R122). -/
  | shli (rd rs1 : Reg) (sh : Nat)
  /-- `SHRI fd, fs1, #sh` (R123). -/
  | shri (rd rs1 : Reg) (sh : Nat)
  /-- `SAMESIGN fd, fs1, fs2` (R124). -/
  | samesign (rd rs1 rs2 : Reg)
  /-- `CMP fd, fs1, fs2` (R125). -/
  | cmp (rd rs1 rs2 : Reg)
  /-- `POW fd, fs1, fs2` (R142). -/
  | pow (rd rs1 rs2 : Reg)
  /-- `EXP fd, fs1` (R143). -/
  | exp (rd rs1 : Reg)
  /-- `COS fd, fs1` (R145). -/
  | cos (rd rs1 : Reg)
  /-- `SIN fd, fs1` (R146). -/
  | sin (rd rs1 : Reg)
  /-- `ATAN2 fd, fs1, fs2` (R148): `rs1` is `y`, `rs2` is `x`. -/
  | atan2 (rd rs1 rs2 : Reg)
  /-- `TORAD fd, fs1` (R149). -/
  | torad (rd rs1 : Reg)
  /-- `SEED fs1` (R171). -/
  | seed (rs1 : Reg)
  /-- `RNGGET fd` (R172). -/
  | rngget (rd : Reg)
  /-- `RANDU32 fd` (R173). -/
  | randu32 (rd : Reg)
  /-- `RANDI32 fd, fs1, fs2` (R176). -/
  | randi32 (rd rs1 rs2 : Reg)
  /-- `RANDI64 fd, fs1, fs2` (R177). -/
  | randi64 (rd rs1 rs2 : Reg)
  /-- `SETGRID fs1, fs2` (R194). -/
  | setgrid (rs1 rs2 : Reg)
  /-- `WALK fs1, fs2, fs3, fs4` (R195). -/
  | walk (rs1 rs2 rs3 rs4 : Reg)
  /-- `WALKB fs1, fs2, fs3, fs4` (R196). -/
  | walkb (rs1 rs2 rs3 rs4 : Reg)
  /-- `WNEXT fd` (R197). -/
  | wnext (rd : Reg)
  /-- `RDFSR fd` (R210). -/
  | rdfsr (rd : Reg)
  deriving DecidableEq, Repr

/-- R79 `FROMRAW fd, #v`. -/
abbrev Instr.fromraw (rd : Reg) (v : Word) : Instr := .ldi rd v

/-- R79 `LDFX fd, #n`: load the FixedPoint value `n.0`, for `-2^51 ≤ n < 2^51`. -/
abbrev Instr.ldfx (rd : Reg) (n : Int) : Instr := .ldi rd (u64 (n * 4096))

/-- R79 `RANDFX fd, fs1, fs2`. -/
abbrev Instr.randfx (rd rs1 rs2 : Reg) : Instr := .randi64 rd rs1 rs2

/-- R79 `GET fs`. -/
abbrev Instr.get (rs : Reg) : Instr := .mov rs rs

/-- R70: one command packet, the 32-bit command word `CP[31:0]` and the 64-bit payload
`CP[95:32]`. -/
structure Packet where
  /-- `CW`, bits 31:0 of the packet. -/
  cw : Word32
  /-- `PAYLOAD`, bits 95:32 of the packet. -/
  payload : Word
  deriving DecidableEq, Repr

end Sys2Proof
end

