-- ==== Sys2Proof/WellFormed.lean ====
section
/-! DEFINITION. Which terms of `Instr` are commands: the checks that the types of the operands do not
make already. A register index is below 16 and a payload has 64 bits by type; a shift count is held to
`0 .. 63` here (R73, R78). -/

namespace Sys2Proof

/-- R73 (b): a shift count is an unsigned 6-bit number. -/
def shiftInRange (sh : Nat) : Bool := decide (sh < 64)

/-- The term stands for a command that the encoding can express. -/
def Instr.wellFormed : Instr → Bool
  | .shli _ _ sh | .shri _ _ sh => shiftInRange sh
  | .ldi .. | .mov .. | .fromint .. | .toint .. | .fromfrac .. => true
  | .add .. | .sub .. | .mul .. | .div .. | .mod .. | .erem .. => true
  | .floor .. | .ceil .. | .round .. | .abs .. | .sqrt .. | .samesign .. | .cmp .. => true
  | .pow .. | .exp .. | .cos .. | .sin .. | .atan2 .. | .torad .. => true
  | .seed .. | .rngget .. | .randu32 .. | .randi32 .. | .randi64 .. => true
  | .setgrid .. | .walk .. | .walkb .. | .wnext .. | .rdfsr .. => true

/-- R79: the integers that `LDFX` takes, `-2^51 ≤ n < 2^51`. -/
def ldfxInRange (n : Int) : Bool := decide (-2 ^ 51 ≤ n) && decide (n < 2 ^ 51)

end Sys2Proof
end

