-- ==== Sys2Proof/Decode.lean ====
section
/-! DEFINITION. The command word: its formats (R72), the opcode map (R74), the decoder, which refuses
every other word by name (R75), the packet's transport form (R53), the encoder, and the assembler's
notation (R78). -/

namespace Sys2Proof

/-- R72: the formats, each the set of fields a command uses. -/
inductive Format where
  /-- `rd`. -/
  | D
  /-- `rd`, `rs1`. -/
  | DS
  /-- `rd`, `rs1`, `rs2`. -/
  | DSS
  /-- `rd`, `rs1`, `sh`. -/
  | DSI
  /-- `rs1`. -/
  | S
  /-- `rs1`, `rs2`. -/
  | SS
  /-- `rs1`, `rs2`, `rs3`, `rs4`. -/
  | S4
  deriving DecidableEq, Repr

/-- R72, column *mask*: the bits of `CW` a decoder compares, the opcode and every must-be-zero bit. -/
def formatMask : Format → Word32
  | .D => 0xFF0FFFFF
  | .DS => 0xFF00FFFF
  | .DSS => 0xFF000FFF
  | .DSI => 0xFF0003FF
  | .S => 0xFFF0FFFF
  | .SS => 0xFFF00FFF
  | .S4 => 0xFFF0000F

/-- R71: the opcode field, `CW[31:24]`. -/
def opField (cw : Word32) : Nat := (cw.extractLsb' 24 8).toNat

/-- R71, R73: a register field, four bits from bit `lo` up, an unsigned index. -/
def regField (lo : Nat) (cw : Word32) : Reg := (cw.extractLsb' lo 4).toFin

/-- R71: the field `rd`, `CW[23:20]`. -/
def rdField (cw : Word32) : Reg := regField 20 cw

/-- R71: the field `rs1`, `CW[19:16]`. -/
def rs1Field (cw : Word32) : Reg := regField 16 cw

/-- R71: the field `rs2`, `CW[15:12]`. -/
def rs2Field (cw : Word32) : Reg := regField 12 cw

/-- R71: the field `rs3`, `CW[11:8]`. -/
def rs3Field (cw : Word32) : Reg := regField 8 cw

/-- R71: the field `rs4`, `CW[7:4]`. -/
def rs4Field (cw : Word32) : Reg := regField 4 cw

/-- R73 (b): the shift count, `CW[15:10]`, unsigned. -/
def shField (cw : Word32) : Nat := (cw.extractLsb' 10 6).toNat

/-- R74: the opcode map. For an assigned opcode, its format and the command that its fields (and, for
`LDI`, the payload) name; nothing for the 220 others. The must-be-zero bits are not looked at here. -/
def opcodeRow (cw : Word32) (payload : Word) : Option (Format × Instr) :=
  match opField cw with
  | 0x01 => some (.D, .ldi (rdField cw) payload)
  | 0x02 => some (.DS, .mov (rdField cw) (rs1Field cw))
  | 0x03 => some (.DS, .fromint (rdField cw) (rs1Field cw))
  | 0x04 => some (.DS, .toint (rdField cw) (rs1Field cw))
  | 0x05 => some (.DSS, .fromfrac (rdField cw) (rs1Field cw) (rs2Field cw))
  | 0x10 => some (.DSS, .add (rdField cw) (rs1Field cw) (rs2Field cw))
  | 0x11 => some (.DSS, .sub (rdField cw) (rs1Field cw) (rs2Field cw))
  | 0x12 => some (.DSS, .mul (rdField cw) (rs1Field cw) (rs2Field cw))
  | 0x13 => some (.DSS, .div (rdField cw) (rs1Field cw) (rs2Field cw))
  | 0x14 => some (.DSS, .mod (rdField cw) (rs1Field cw) (rs2Field cw))
  | 0x15 => some (.DSS, .erem (rdField cw) (rs1Field cw) (rs2Field cw))
  | 0x16 => some (.DS, .floor (rdField cw) (rs1Field cw))
  | 0x17 => some (.DS, .ceil (rdField cw) (rs1Field cw))
  | 0x18 => some (.DS, .round (rdField cw) (rs1Field cw))
  | 0x19 => some (.DS, .abs (rdField cw) (rs1Field cw))
  | 0x1A => some (.DS, .sqrt (rdField cw) (rs1Field cw))
  | 0x1B => some (.DSI, .shli (rdField cw) (rs1Field cw) (shField cw))
  | 0x1C => some (.DSI, .shri (rdField cw) (rs1Field cw) (shField cw))
  | 0x1D => some (.DSS, .samesign (rdField cw) (rs1Field cw) (rs2Field cw))
  | 0x1E => some (.DSS, .cmp (rdField cw) (rs1Field cw) (rs2Field cw))
  | 0x20 => some (.DSS, .pow (rdField cw) (rs1Field cw) (rs2Field cw))
  | 0x21 => some (.DS, .exp (rdField cw) (rs1Field cw))
  | 0x22 => some (.DS, .cos (rdField cw) (rs1Field cw))
  | 0x23 => some (.DS, .sin (rdField cw) (rs1Field cw))
  | 0x24 => some (.DSS, .atan2 (rdField cw) (rs1Field cw) (rs2Field cw))
  | 0x25 => some (.DS, .torad (rdField cw) (rs1Field cw))
  | 0x30 => some (.S, .seed (rs1Field cw))
  | 0x31 => some (.D, .rngget (rdField cw))
  | 0x32 => some (.D, .randu32 (rdField cw))
  | 0x33 => some (.DSS, .randi32 (rdField cw) (rs1Field cw) (rs2Field cw))
  | 0x34 => some (.DSS, .randi64 (rdField cw) (rs1Field cw) (rs2Field cw))
  | 0x40 => some (.SS, .setgrid (rs1Field cw) (rs2Field cw))
  | 0x41 => some (.S4, .walk (rs1Field cw) (rs2Field cw) (rs3Field cw) (rs4Field cw))
  | 0x42 => some (.S4, .walkb (rs1Field cw) (rs2Field cw) (rs3Field cw) (rs4Field cw))
  | 0x43 => some (.D, .wnext (rdField cw))
  | 0x50 => some (.D, .rdfsr (rdField cw))
  | _ => none

/-- Why a packet is no command (R75). -/
inductive DecodeError where
  /-- The opcode is none of R74's 36. -/
  | unassignedOpcode (op : Nat)
  /-- The opcode is assigned and a bit that its format reserves is set. -/
  | reservedBitSet (format : Format)
  /-- The bytes are not the twelve of one packet (R53). -/
  | notOnePacket (bytes : Nat)
  deriving DecidableEq, Repr

/-- R72, R75: the command a packet encodes. An assigned opcode whose must-be-zero bits are not all 0
is no command. The same packet always decodes the same way (R77). -/
def decode (p : Packet) : Except DecodeError Instr :=
  match opcodeRow p.cw p.payload with
  | none => .error (.unassignedOpcode (opField p.cw))
  | some (format, i) =>
    if p.cw &&& formatMask format = BitVec.ofNat 32 (opField p.cw * 2 ^ 24) then .ok i
    else .error (.reservedBitSet format)

/-! ### The transport form of a packet (R53) -/

/-- R53: the bytes of a number, byte 0 the least significant. -/
def littleEndian : Nat → Nat → List Byte
  | 0, _ => []
  | n + 1, v => BitVec.ofNat 8 v :: littleEndian n (v / 256)

/-- The number that little-endian bytes carry. -/
def ofLittleEndian : List Byte → Nat
  | [] => 0
  | b :: rest => b.toNat + 256 * ofLittleEndian rest

/-- R70: the 96 bits of a packet as one number, bit 0 the least significant. -/
def packetBits (p : Packet) : Nat := p.cw.toNat + 2 ^ 32 * p.payload.toNat

/-- R70: the packet that 96 bits are. -/
def packetOfBits (w : Nat) : Packet :=
  { cw := BitVec.ofNat 32 w, payload := BitVec.ofNat 64 (w / 2 ^ 32) }

/-- R53: a packet as twelve bytes, byte 0 carrying bits 7:0. -/
def packetBytes (p : Packet) : List Byte := littleEndian 12 (packetBits p)

/-- R53: the command that bytes carry; bytes that are not twelve carry none (log 7). -/
def decodeBytes (bytes : List Byte) : Except DecodeError Instr :=
  if bytes.length = 12 then decode (packetOfBits (ofLittleEndian bytes))
  else .error (.notOnePacket bytes.length)

/-- The packet whose low `nbits` bits are those of `w` and whose other bits are 0. -/
def packetOfTableWord (nbits w : Nat) : Packet := packetOfBits (w % 2 ^ nbits)

/-- The instruction the decoder reads from an opcode-table word: bit 0 of `w` is bit 0 of the command
word, the payload's bits count on from bit 32, and the bits from `nbits` up are 0. -/
def decodeTableWord (nbits w : Nat) : Option Instr :=
  (decodeBytes (packetBytes (packetOfTableWord nbits w))).toOption

/-! ### The encoder -/

/-- R74, column *op*. -/
def opcodeOf : Instr → BitVec 8
  | .ldi .. => 0x01
  | .mov .. => 0x02
  | .fromint .. => 0x03
  | .toint .. => 0x04
  | .fromfrac .. => 0x05
  | .add .. => 0x10
  | .sub .. => 0x11
  | .mul .. => 0x12
  | .div .. => 0x13
  | .mod .. => 0x14
  | .erem .. => 0x15
  | .floor .. => 0x16
  | .ceil .. => 0x17
  | .round .. => 0x18
  | .abs .. => 0x19
  | .sqrt .. => 0x1A
  | .shli .. => 0x1B
  | .shri .. => 0x1C
  | .samesign .. => 0x1D
  | .cmp .. => 0x1E
  | .pow .. => 0x20
  | .exp .. => 0x21
  | .cos .. => 0x22
  | .sin .. => 0x23
  | .atan2 .. => 0x24
  | .torad .. => 0x25
  | .seed .. => 0x30
  | .rngget .. => 0x31
  | .randu32 .. => 0x32
  | .randi32 .. => 0x33
  | .randi64 .. => 0x34
  | .setgrid .. => 0x40
  | .walk .. => 0x41
  | .walkb .. => 0x42
  | .wnext .. => 0x43
  | .rdfsr .. => 0x50

/-- R74, column *format*. -/
def formatOf : Instr → Format
  | .ldi .. | .rngget .. | .randu32 .. | .wnext .. | .rdfsr .. => .D
  | .mov .. | .fromint .. | .toint .. | .floor .. | .ceil .. | .round .. | .abs .. | .sqrt .. => .DS
  | .exp .. | .cos .. | .sin .. | .torad .. => .DS
  | .fromfrac .. | .add .. | .sub .. | .mul .. | .div .. | .mod .. | .erem .. => .DSS
  | .samesign .. | .cmp .. | .pow .. | .atan2 .. | .randi32 .. | .randi64 .. => .DSS
  | .shli .. | .shri .. => .DSI
  | .seed .. => .S
  | .setgrid .. => .SS
  | .walk .. | .walkb .. => .S4

/-- A register number as a 4-bit field. -/
def regBits (r : Reg) : BitVec 4 := BitVec.ofFin r

/-- R71: a command word from its opcode, its five register fields and the reserved low bits. -/
def commandWord (op : BitVec 8) (rd rs1 rs2 rs3 rs4 : Reg) : Word32 :=
  op ++ regBits rd ++ regBits rs1 ++ regBits rs2 ++ regBits rs3 ++ regBits rs4 ++ 0#4

/-- R71, format `DSI`: bits 15:10 are the shift count and bits 9:0 are 0. -/
def shiftWord (op : BitVec 8) (rd rs1 : Reg) (sh : Nat) : Word32 :=
  op ++ regBits rd ++ regBits rs1 ++ BitVec.ofNat 6 sh ++ 0#10

/-- R71, R72: the command word of an instruction; the fields its format does not use are 0. -/
def encodeWord (i : Instr) : Word32 :=
  match i with
  | .ldi rd _ | .rngget rd | .randu32 rd | .wnext rd | .rdfsr rd =>
    commandWord (opcodeOf i) rd 0 0 0 0
  | .mov rd rs1 | .fromint rd rs1 | .toint rd rs1 | .floor rd rs1 | .ceil rd rs1 | .round rd rs1
  | .abs rd rs1 | .sqrt rd rs1 | .exp rd rs1 | .cos rd rs1 | .sin rd rs1 | .torad rd rs1 =>
    commandWord (opcodeOf i) rd rs1 0 0 0
  | .fromfrac rd rs1 rs2 | .add rd rs1 rs2 | .sub rd rs1 rs2 | .mul rd rs1 rs2 | .div rd rs1 rs2
  | .mod rd rs1 rs2 | .erem rd rs1 rs2 | .samesign rd rs1 rs2 | .cmp rd rs1 rs2 | .pow rd rs1 rs2
  | .atan2 rd rs1 rs2 | .randi32 rd rs1 rs2 | .randi64 rd rs1 rs2 =>
    commandWord (opcodeOf i) rd rs1 rs2 0 0
  | .shli rd rs1 sh | .shri rd rs1 sh => shiftWord (opcodeOf i) rd rs1 sh
  | .seed rs1 => commandWord (opcodeOf i) 0 rs1 0 0 0
  | .setgrid rs1 rs2 => commandWord (opcodeOf i) 0 rs1 rs2 0 0
  | .walk rs1 rs2 rs3 rs4 | .walkb rs1 rs2 rs3 rs4 =>
    commandWord (opcodeOf i) 0 rs1 rs2 rs3 rs4

/-- R70: the payload of an instruction: `LDI`'s immediate, and 0 for the commands that ignore it. -/
def encodePayload : Instr → Word
  | .ldi _ imm => imm
  | _ => 0

/-- The packet of a well-formed instruction. -/
def encode (i : Instr) : Packet := { cw := encodeWord i, payload := encodePayload i }

/-! ### Assembler notation (R78) -/

/-- R74: the mnemonic. -/
def mnemonicOf : Instr → String
  | .ldi .. => "LDI"
  | .mov .. => "MOV"
  | .fromint .. => "FROMINT"
  | .toint .. => "TOINT"
  | .fromfrac .. => "FROMFRAC"
  | .add .. => "ADD"
  | .sub .. => "SUB"
  | .mul .. => "MUL"
  | .div .. => "DIV"
  | .mod .. => "MOD"
  | .erem .. => "EREM"
  | .floor .. => "FLOOR"
  | .ceil .. => "CEIL"
  | .round .. => "ROUND"
  | .abs .. => "ABS"
  | .sqrt .. => "SQRT"
  | .shli .. => "SHLI"
  | .shri .. => "SHRI"
  | .samesign .. => "SAMESIGN"
  | .cmp .. => "CMP"
  | .pow .. => "POW"
  | .exp .. => "EXP"
  | .cos .. => "COS"
  | .sin .. => "SIN"
  | .atan2 .. => "ATAN2"
  | .torad .. => "TORAD"
  | .seed .. => "SEED"
  | .rngget .. => "RNGGET"
  | .randu32 .. => "RANDU32"
  | .randi32 .. => "RANDI32"
  | .randi64 .. => "RANDI64"
  | .setgrid .. => "SETGRID"
  | .walk .. => "WALK"
  | .walkb .. => "WALKB"
  | .wnext .. => "WNEXT"
  | .rdfsr .. => "RDFSR"

/-- R78: a register is written `f0` to `f15`. -/
def regText (r : Reg) : String := "f" ++ toString r.val

/-- R78: the operands in the order `rd, rs1, rs2, rs3, rs4` as far as the format has them. -/
def operandTexts : Instr → List String
  | .ldi rd imm => [regText rd, "#" ++ toString imm.toNat]
  | .rngget rd | .randu32 rd | .wnext rd | .rdfsr rd => [regText rd]
  | .mov rd rs1 | .fromint rd rs1 | .toint rd rs1 | .floor rd rs1 | .ceil rd rs1 | .round rd rs1
  | .abs rd rs1 | .sqrt rd rs1 | .exp rd rs1 | .cos rd rs1 | .sin rd rs1 | .torad rd rs1 =>
    [regText rd, regText rs1]
  | .fromfrac rd rs1 rs2 | .add rd rs1 rs2 | .sub rd rs1 rs2 | .mul rd rs1 rs2 | .div rd rs1 rs2
  | .mod rd rs1 rs2 | .erem rd rs1 rs2 | .samesign rd rs1 rs2 | .cmp rd rs1 rs2 | .pow rd rs1 rs2
  | .atan2 rd rs1 rs2 | .randi32 rd rs1 rs2 | .randi64 rd rs1 rs2 =>
    [regText rd, regText rs1, regText rs2]
  | .shli rd rs1 sh | .shri rd rs1 sh => [regText rd, regText rs1, "#" ++ toString sh]
  | .seed rs1 => [regText rs1]
  | .setgrid rs1 rs2 => [regText rs1, regText rs2]
  | .walk rs1 rs2 rs3 rs4 | .walkb rs1 rs2 rs3 rs4 =>
    [regText rs1, regText rs2, regText rs3, regText rs4]

/-- R78: one command in the assembler's notation, `LDI`'s payload in its unsigned decimal form. -/
def assemblyText (i : Instr) : String :=
  mnemonicOf i ++ " " ++ String.intercalate ", " (operandTexts i)

/-- R78: the payload that `LDI`'s written integer stands for, if it is one that may be written. -/
def payloadOfInteger (n : Int) : Option Word :=
  if -2 ^ 63 ≤ n ∧ n < 2 ^ 64 then some (u64 n) else none

end Sys2Proof
end

