-- ==== Sys2Proof/Config.lean ====
section
/-! DEFINITION. The configuration record `CFG` (`00_scope.md` R8, `46_rom_tables.md` R215): what an
implementation of the FXU fixes when it is built. The constraints (R216) and the reference
instantiation (R217 to R220) stand in Machine/Rom.lean. And one value that the spec leaves free. -/

namespace Sys2Proof

/-- R215: the eleven fields of `CFG`. Table entries and constants are signed 64-bit raw values. -/
structure Cfg where
  /-- `CFG.COS_TABLE` (R218 for the reference). -/
  cosTable : List Word
  /-- `CFG.SIN_TABLE` (R219 for the reference). -/
  sinTable : List Word
  /-- `CFG.TAN_TABLE` (R220 for the reference). -/
  tanTable : List Word
  /-- `CFG.K_PI`. -/
  kPi : Word
  /-- `CFG.K_TWO_PI`. -/
  kTwoPi : Word
  /-- `CFG.K_HALF_PI`. -/
  kHalfPi : Word
  /-- `CFG.K_LN2`. -/
  kLn2 : Word
  /-- `CFG.K_INV_LN2`. -/
  kInvLn2 : Word
  /-- `CFG.EXP_IN_MAX`. -/
  expInMax : Word
  /-- `CFG.EXP_IN_MIN`. -/
  expInMin : Word
  /-- `CFG.EXP_TERMS`, a non-negative integer. -/
  expTerms : Nat
  deriving DecidableEq, Repr

/-- The four bits that fill up the ninth byte of a response in its transport form: a free value, since
the spec gives 68 bits and no value above them (log 12). -/
opaque Cfg.responsePadding : BitVec 68 → BitVec 4

end Sys2Proof
end

