-- ==== Sys2Proof/Machine/Rom.lean ====
section
/-! DEFINITION. The ROM tables: reading one (`20_memory.md` R52), the constraints every `CFG` meets
(`46_rom_tables.md` R216), and the spec's reference instantiation (R217 to R220). -/

namespace Sys2Proof.Machine

/-- R52 `TableRead(T, i)`: entry `i` of a table, read as a signed integer. An index that a table does
not have reads 0; no rule reads one (log 4). -/
def tableRead (table : List Word) (i : Nat) : Int := s64 (table.getD i 0)

/-- R218: entries 0 to 127 of the reference `COS_TABLE`. -/
def cosReference0 : List Int := [
  4096, 4096, 4095, 4093, 4091, 4088, 4085, 4081,
  4076, 4071, 4065, 4059, 4052, 4044, 4036, 4027,
  4017, 4007, 3996, 3985, 3973, 3961, 3948, 3934,
  3920, 3905, 3889, 3873, 3857, 3839, 3822, 3803,
  3784, 3765, 3745, 3724, 3703, 3681, 3659, 3636,
  3612, 3588, 3564, 3539, 3513, 3487, 3461, 3433,
  3406, 3378, 3349, 3320, 3290, 3260, 3229, 3198,
  3166, 3134, 3102, 3068, 3035, 3001, 2967, 2932,
  2896, 2861, 2824, 2788, 2751, 2713, 2675, 2637,
  2598, 2559, 2520, 2480, 2440, 2399, 2359, 2317,
  2276, 2234, 2191, 2149, 2106, 2062, 2019, 1975,
  1931, 1886, 1842, 1797, 1751, 1706, 1660, 1614,
  1567, 1521, 1474, 1427, 1380, 1332, 1285, 1237,
  1189, 1141, 1092, 1044, 995, 946, 897, 848,
  799, 750, 700, 651, 601, 551, 501, 451,
  401, 351, 301, 251, 201, 151, 101, 50]

/-- R218: entries 128 to 255 of the reference `COS_TABLE`. -/
def cosReference1 : List Int := [
  0, -50, -101, -151, -201, -251, -301, -351,
  -401, -451, -501, -551, -601, -651, -700, -750,
  -799, -848, -897, -946, -995, -1044, -1092, -1141,
  -1189, -1237, -1285, -1332, -1380, -1427, -1474, -1521,
  -1567, -1614, -1660, -1706, -1751, -1797, -1842, -1886,
  -1931, -1975, -2019, -2062, -2106, -2149, -2191, -2234,
  -2276, -2317, -2359, -2399, -2440, -2480, -2520, -2559,
  -2598, -2637, -2675, -2713, -2751, -2788, -2824, -2861,
  -2896, -2932, -2967, -3001, -3035, -3068, -3102, -3134,
  -3166, -3198, -3229, -3260, -3290, -3320, -3349, -3378,
  -3406, -3433, -3461, -3487, -3513, -3539, -3564, -3588,
  -3612, -3636, -3659, -3681, -3703, -3724, -3745, -3765,
  -3784, -3803, -3822, -3839, -3857, -3873, -3889, -3905,
  -3920, -3934, -3948, -3961, -3973, -3985, -3996, -4007,
  -4017, -4027, -4036, -4044, -4052, -4059, -4065, -4071,
  -4076, -4081, -4085, -4088, -4091, -4093, -4095, -4096]

/-- R218: entries 256 to 383 of the reference `COS_TABLE`. -/
def cosReference2 : List Int := [
  -4096, -4096, -4095, -4093, -4091, -4088, -4085, -4081,
  -4076, -4071, -4065, -4059, -4052, -4044, -4036, -4027,
  -4017, -4007, -3996, -3985, -3973, -3961, -3948, -3934,
  -3920, -3905, -3889, -3873, -3857, -3839, -3822, -3803,
  -3784, -3765, -3745, -3724, -3703, -3681, -3659, -3636,
  -3612, -3588, -3564, -3539, -3513, -3487, -3461, -3433,
  -3406, -3378, -3349, -3320, -3290, -3260, -3229, -3198,
  -3166, -3134, -3102, -3068, -3035, -3001, -2967, -2932,
  -2896, -2861, -2824, -2788, -2751, -2713, -2675, -2637,
  -2598, -2559, -2520, -2480, -2440, -2399, -2359, -2317,
  -2276, -2234, -2191, -2149, -2106, -2062, -2019, -1975,
  -1931, -1886, -1842, -1797, -1751, -1706, -1660, -1614,
  -1567, -1521, -1474, -1427, -1380, -1332, -1285, -1237,
  -1189, -1141, -1092, -1044, -995, -946, -897, -848,
  -799, -750, -700, -651, -601, -551, -501, -451,
  -401, -351, -301, -251, -201, -151, -101, -50]

/-- R218: entries 384 to 511 of the reference `COS_TABLE`. -/
def cosReference3 : List Int := [
  0, 50, 101, 151, 201, 251, 301, 351,
  401, 451, 501, 551, 601, 651, 700, 750,
  799, 848, 897, 946, 995, 1044, 1092, 1141,
  1189, 1237, 1285, 1332, 1380, 1427, 1474, 1521,
  1567, 1614, 1660, 1706, 1751, 1797, 1842, 1886,
  1931, 1975, 2019, 2062, 2106, 2149, 2191, 2234,
  2276, 2317, 2359, 2399, 2440, 2480, 2520, 2559,
  2598, 2637, 2675, 2713, 2751, 2788, 2824, 2861,
  2896, 2932, 2967, 3001, 3035, 3068, 3102, 3134,
  3166, 3198, 3229, 3260, 3290, 3320, 3349, 3378,
  3406, 3433, 3461, 3487, 3513, 3539, 3564, 3588,
  3612, 3636, 3659, 3681, 3703, 3724, 3745, 3765,
  3784, 3803, 3822, 3839, 3857, 3873, 3889, 3905,
  3920, 3934, 3948, 3961, 3973, 3985, 3996, 4007,
  4017, 4027, 4036, 4044, 4052, 4059, 4065, 4071,
  4076, 4081, 4085, 4088, 4091, 4093, 4095, 4096]

/-- R218: the reference `COS_TABLE`. -/
def cosReference : List Word :=
  (cosReference0 ++ cosReference1 ++ cosReference2 ++ cosReference3).map u64

/-- R219: entries 0 to 127 of the reference `SIN_TABLE`. -/
def sinReference0 : List Int := [
  0, 50, 101, 151, 201, 251, 301, 351,
  401, 451, 501, 551, 601, 651, 700, 750,
  799, 848, 897, 946, 995, 1044, 1092, 1141,
  1189, 1237, 1285, 1332, 1380, 1427, 1474, 1521,
  1567, 1614, 1660, 1706, 1751, 1797, 1842, 1886,
  1931, 1975, 2019, 2062, 2106, 2149, 2191, 2234,
  2276, 2317, 2359, 2399, 2440, 2480, 2520, 2559,
  2598, 2637, 2675, 2713, 2751, 2788, 2824, 2861,
  2896, 2932, 2967, 3001, 3035, 3068, 3102, 3134,
  3166, 3198, 3229, 3260, 3290, 3320, 3349, 3378,
  3406, 3433, 3461, 3487, 3513, 3539, 3564, 3588,
  3612, 3636, 3659, 3681, 3703, 3724, 3745, 3765,
  3784, 3803, 3822, 3839, 3857, 3873, 3889, 3905,
  3920, 3934, 3948, 3961, 3973, 3985, 3996, 4007,
  4017, 4027, 4036, 4044, 4052, 4059, 4065, 4071,
  4076, 4081, 4085, 4088, 4091, 4093, 4095, 4096]

/-- R219: entries 128 to 255 of the reference `SIN_TABLE`. -/
def sinReference1 : List Int := [
  4096, 4096, 4095, 4093, 4091, 4088, 4085, 4081,
  4076, 4071, 4065, 4059, 4052, 4044, 4036, 4027,
  4017, 4007, 3996, 3985, 3973, 3961, 3948, 3934,
  3920, 3905, 3889, 3873, 3857, 3839, 3822, 3803,
  3784, 3765, 3745, 3724, 3703, 3681, 3659, 3636,
  3612, 3588, 3564, 3539, 3513, 3487, 3461, 3433,
  3406, 3378, 3349, 3320, 3290, 3260, 3229, 3198,
  3166, 3134, 3102, 3068, 3035, 3001, 2967, 2932,
  2896, 2861, 2824, 2788, 2751, 2713, 2675, 2637,
  2598, 2559, 2520, 2480, 2440, 2399, 2359, 2317,
  2276, 2234, 2191, 2149, 2106, 2062, 2019, 1975,
  1931, 1886, 1842, 1797, 1751, 1706, 1660, 1614,
  1567, 1521, 1474, 1427, 1380, 1332, 1285, 1237,
  1189, 1141, 1092, 1044, 995, 946, 897, 848,
  799, 750, 700, 651, 601, 551, 501, 451,
  401, 351, 301, 251, 201, 151, 101, 50]

/-- R219: entries 256 to 383 of the reference `SIN_TABLE`. -/
def sinReference2 : List Int := [
  0, -50, -101, -151, -201, -251, -301, -351,
  -401, -451, -501, -551, -601, -651, -700, -750,
  -799, -848, -897, -946, -995, -1044, -1092, -1141,
  -1189, -1237, -1285, -1332, -1380, -1427, -1474, -1521,
  -1567, -1614, -1660, -1706, -1751, -1797, -1842, -1886,
  -1931, -1975, -2019, -2062, -2106, -2149, -2191, -2234,
  -2276, -2317, -2359, -2399, -2440, -2480, -2520, -2559,
  -2598, -2637, -2675, -2713, -2751, -2788, -2824, -2861,
  -2896, -2932, -2967, -3001, -3035, -3068, -3102, -3134,
  -3166, -3198, -3229, -3260, -3290, -3320, -3349, -3378,
  -3406, -3433, -3461, -3487, -3513, -3539, -3564, -3588,
  -3612, -3636, -3659, -3681, -3703, -3724, -3745, -3765,
  -3784, -3803, -3822, -3839, -3857, -3873, -3889, -3905,
  -3920, -3934, -3948, -3961, -3973, -3985, -3996, -4007,
  -4017, -4027, -4036, -4044, -4052, -4059, -4065, -4071,
  -4076, -4081, -4085, -4088, -4091, -4093, -4095, -4096]

/-- R219: entries 384 to 511 of the reference `SIN_TABLE`. -/
def sinReference3 : List Int := [
  -4096, -4096, -4095, -4093, -4091, -4088, -4085, -4081,
  -4076, -4071, -4065, -4059, -4052, -4044, -4036, -4027,
  -4017, -4007, -3996, -3985, -3973, -3961, -3948, -3934,
  -3920, -3905, -3889, -3873, -3857, -3839, -3822, -3803,
  -3784, -3765, -3745, -3724, -3703, -3681, -3659, -3636,
  -3612, -3588, -3564, -3539, -3513, -3487, -3461, -3433,
  -3406, -3378, -3349, -3320, -3290, -3260, -3229, -3198,
  -3166, -3134, -3102, -3068, -3035, -3001, -2967, -2932,
  -2896, -2861, -2824, -2788, -2751, -2713, -2675, -2637,
  -2598, -2559, -2520, -2480, -2440, -2399, -2359, -2317,
  -2276, -2234, -2191, -2149, -2106, -2062, -2019, -1975,
  -1931, -1886, -1842, -1797, -1751, -1706, -1660, -1614,
  -1567, -1521, -1474, -1427, -1380, -1332, -1285, -1237,
  -1189, -1141, -1092, -1044, -995, -946, -897, -848,
  -799, -750, -700, -651, -601, -551, -501, -451,
  -401, -351, -301, -251, -201, -151, -101, -50]

/-- R219: the reference `SIN_TABLE`. -/
def sinReference : List Word :=
  (sinReference0 ++ sinReference1 ++ sinReference2 ++ sinReference3).map u64

/-- R220: entries 0 to 127 of the reference `TAN_TABLE`. -/
def tanReference0 : List Int := [
  0, 13, 25, 38, 50, 63, 75, 88,
  101, 113, 126, 138, 151, 163, 176, 189,
  201, 214, 226, 239, 252, 264, 277, 290,
  302, 315, 327, 340, 353, 365, 378, 391,
  403, 416, 429, 442, 454, 467, 480, 492,
  505, 518, 531, 544, 556, 569, 582, 595,
  608, 620, 633, 646, 659, 672, 685, 698,
  711, 724, 737, 750, 763, 776, 789, 802,
  815, 828, 841, 854, 867, 880, 893, 907,
  920, 933, 946, 959, 973, 986, 999, 1013,
  1026, 1039, 1053, 1066, 1080, 1093, 1107, 1120,
  1134, 1147, 1161, 1174, 1188, 1201, 1215, 1229,
  1243, 1256, 1270, 1284, 1298, 1311, 1325, 1339,
  1353, 1367, 1381, 1395, 1409, 1423, 1437, 1451,
  1466, 1480, 1494, 1508, 1523, 1537, 1551, 1566,
  1580, 1594, 1609, 1623, 1638, 1653, 1667, 1682]

/-- R220: entries 128 to 255 of the reference `TAN_TABLE`. -/
def tanReference1 : List Int := [
  1697, 1711, 1726, 1741, 1756, 1771, 1786, 1801,
  1816, 1831, 1846, 1861, 1876, 1891, 1907, 1922,
  1937, 1953, 1968, 1984, 1999, 2015, 2030, 2046,
  2062, 2078, 2093, 2109, 2125, 2141, 2157, 2173,
  2189, 2206, 2222, 2238, 2254, 2271, 2287, 2304,
  2320, 2337, 2354, 2370, 2387, 2404, 2421, 2438,
  2455, 2472, 2489, 2507, 2524, 2541, 2559, 2576,
  2594, 2611, 2629, 2647, 2665, 2683, 2701, 2719,
  2737, 2755, 2773, 2792, 2810, 2829, 2847, 2866,
  2885, 2904, 2922, 2941, 2961, 2980, 2999, 3018,
  3038, 3057, 3077, 3097, 3116, 3136, 3156, 3176,
  3197, 3217, 3237, 3258, 3278, 3299, 3320, 3341,
  3362, 3383, 3404, 3425, 3446, 3468, 3490, 3511,
  3533, 3555, 3577, 3600, 3622, 3644, 3667, 3690,
  3712, 3735, 3758, 3782, 3805, 3828, 3852, 3876,
  3900, 3924, 3948, 3972, 3997, 4021, 4046, 4071]

/-- R220: entries 256 to 383 of the reference `TAN_TABLE`. -/
def tanReference2 : List Int := [
  4096, 4121, 4147, 4172, 4198, 4224, 4250, 4276,
  4302, 4329, 4355, 4382, 4409, 4436, 4464, 4491,
  4519, 4547, 4575, 4604, 4632, 4661, 4690, 4719,
  4748, 4778, 4808, 4838, 4868, 4898, 4929, 4960,
  4991, 5022, 5054, 5086, 5118, 5150, 5183, 5215,
  5249, 5282, 5315, 5349, 5383, 5418, 5453, 5488,
  5523, 5558, 5594, 5630, 5667, 5704, 5741, 5778,
  5816, 5854, 5892, 5931, 5970, 6010, 6049, 6090,
  6130, 6171, 6212, 6254, 6296, 6338, 6381, 6425,
  6468, 6512, 6557, 6602, 6647, 6693, 6740, 6786,
  6834, 6882, 6930, 6979, 7028, 7078, 7128, 7179,
  7230, 7282, 7335, 7388, 7442, 7496, 7551, 7607,
  7663, 7720, 7777, 7836, 7895, 7954, 8015, 8076,
  8137, 8200, 8263, 8327, 8392, 8458, 8525, 8592,
  8660, 8729, 8800, 8871, 8943, 9016, 9089, 9164,
  9240, 9317, 9396, 9475, 9555, 9637, 9720, 9803]

/-- R220: entries 384 to 511 of the reference `TAN_TABLE`. -/
def tanReference3 : List Int := [
  9889, 9975, 10063, 10152, 10242, 10334, 10427, 10522,
  10618, 10716, 10816, 10917, 11019, 11124, 11230, 11338,
  11448, 11559, 11673, 11788, 11906, 12026, 12148, 12272,
  12399, 12528, 12659, 12793, 12929, 13068, 13210, 13355,
  13503, 13653, 13807, 13964, 14124, 14288, 14455, 14626,
  14801, 14980, 15162, 15349, 15540, 15736, 15937, 16142,
  16352, 16568, 16789, 17015, 17247, 17486, 17731, 17982,
  18240, 18506, 18779, 19059, 19348, 19645, 19951, 20267,
  20592, 20927, 21273, 21631, 22000, 22381, 22775, 23183,
  23606, 24044, 24497, 24968, 25457, 25964, 26492, 27041,
  27613, 28209, 28831, 29480, 30158, 30868, 31612, 32391,
  33209, 34070, 34975, 35928, 36935, 37999, 39125, 40319,
  41587, 42937, 44377, 45916, 47564, 49335, 51241, 53299,
  55528, 57951, 60594, 63488, 66671, 70188, 74096, 78463,
  83376, 88943, 95305, 102645, 111207, 121326, 133467, 148305,
  166853, 190698, 222490, 266997, 333755, 445017, 667536, 1335084]

/-- R220: the reference `TAN_TABLE`. -/
def tanReference : List Word :=
  (tanReference0 ++ tanReference1 ++ tanReference2 ++ tanReference3).map u64

/-- R217 to R220: the reference instantiation of `CFG`. -/
def referenceCfg : Cfg where
  cosTable := cosReference
  sinTable := sinReference
  tanTable := tanReference
  kPi := u64 12868
  kTwoPi := u64 25736
  kHalfPi := u64 6434
  kLn2 := u64 2839
  kInvLn2 := u64 5909
  expInMax := u64 262144
  expInMin := u64 (-262144)
  expTerms := 11

/-- R216 b: the entries of a table rise strictly. -/
def strictlyRising : List Word → Bool
  | [] => true
  | [_] => true
  | a :: b :: rest => decide (s64 a < s64 b) && strictlyRising (b :: rest)

/-- R216: the constraints a to g that every instantiation of `CFG` must meet, in their order. -/
def cfgValid (c : Cfg) : Bool :=
  (decide (c.cosTable.length = 512) && decide (c.sinTable.length = 512) &&
    decide (c.tanTable.length = 512)) &&
  strictlyRising c.tanTable &&
  decide (0 ≤ tableRead c.tanTable 0) &&
  decide (0 < s64 c.kTwoPi) &&
  (decide (0 < s64 c.kHalfPi) && decide (s64 c.kPi + s64 c.kHalfPi < s64 c.kTwoPi) &&
    decide (s64 c.kTwoPi < 2 ^ 42) && decide (511 * s64 c.kHalfPi / 512 < s64 c.kPi)) &&
  (decide (s64 c.expInMin ≤ 0) && decide (0 ≤ s64 c.expInMax)) &&
  (decide ((s64 c.expInMax * s64 c.kInvLn2).natAbs < 2 ^ 75) &&
    decide ((s64 c.expInMin * s64 c.kInvLn2).natAbs < 2 ^ 75))

end Sys2Proof.Machine
end

