-- ==== Sys2Proof/Machine/State.lean ====
section
/-! DEFINITION. The state of the machine as plain data: the architectural state (`10_state.md` R20),
the configuration record it was built with, and the two sides of the host interface
(`70_reset_and_hazards.md` R267); why a step may stop; the state after reset (R33). -/

namespace Sys2Proof.Machine

/-- R230: the outcome code of a command. The codes' numbers stand in Machine/Flags.lean. -/
inductive Status where
  /-- The command completed. -/
  | ok
  /-- A zero divisor. -/
  | divisionByZero
  /-- A random range with `max < min`. -/
  | invalidRange
  /-- A square root of a negative value. -/
  | domainError
  /-- `POW` or `EXP` clamped its result: informational, the command completed (R233). -/
  | saturated
  /-- The packet is no command (R75). -/
  | illegalCommand
  /-- A violated precondition. -/
  | precondition
  /-- `WNEXT` on an empty queue: informational (R234). -/
  | walkEnd
  deriving DecidableEq, Repr

/-- R80: the answer to one accepted packet. -/
structure Response where
  /-- `RP[67:64]`. -/
  status : Status
  /-- `RP[63:0]`. -/
  data : Word
  deriving DecidableEq, Repr

/-- R29, R190: a GridPosition, a pair of signed 32-bit cell indices. -/
structure Cell where
  /-- The x index, in two's complement. -/
  cx : Word32
  /-- The y index, in two's complement. -/
  cy : Word32
  deriving DecidableEq, Repr

/-- R267: what the host can do to the unit. -/
inductive HostEvent where
  /-- Present a packet when the unit is idle, and take its response (R70). -/
  | command (p : Packet)
  /-- Assert reset while the unit is idle (R260). -/
  | reset
  /-- Assert reset while the command of an accepted packet is in progress (R260; log 6). -/
  | resetDuring (p : Packet)
  deriving DecidableEq, Repr

/-- The state of the machine. `regs` to `fsr` are the architectural state, "exactly the following, and
nothing else" (R20); `cfg`, `host` and `responses` are the model's own (log 3, log 1, log 2). -/
structure State where
  /-- `f0` .. `f15` (R23). -/
  regs : Vector Word 16
  /-- `RNG`, the engine word; 0 means unseeded (R27). -/
  rng : Word32
  /-- `GRID_W` (R28). -/
  gridW : Word32
  /-- `GRID_H` (R28). -/
  gridH : Word32
  /-- `WQ`, the cells of the last walk not yet read, the next one first (R29). -/
  wq : List Cell
  /-- `FSR`, the sticky status bits (R26). -/
  fsr : BitVec 8
  /-- The parameter `CFG` of the step (R8, R215). No command and no reset writes it (R30, R261). -/
  cfg : Cfg
  /-- What the host does from here on, the next event first (R23, R267). -/
  host : List HostEvent
  /-- The responses produced so far, the oldest first (R80, R267). -/
  responses : List Response
  deriving DecidableEq, Repr

/-- Why the machine stops with a fault. It never does: the spec's faults are statuses of a response,
after which the unit accepts the next command (R231, R238), so this type has no constructor. Raised by
no meaning; safe (log 8). -/
inductive Fault where
  deriving DecidableEq, Repr

/-- Why a command has no next state. -/
inductive Refusal where
  /-- Raised by `exec`'s arm of an instruction that has no meaning yet. Safe: nothing is claimed of
  it. -/
  | notModelled (mnemonic : String)
  /-- Raised by `RANDI32` and `RANDI64` when a retry loop of the sampler ran through its fuel of
  `2^31` rounds without an acceptance, which R265 lets a model treat "as outside the specified
  behaviour" (U14). Safe: the model stops where the hardware goes on (log 5). -/
  | samplerFuelExhausted
  deriving DecidableEq, Repr

/-- The outcome of one step or of one command. -/
abbrev Result := Host.Outcome State Fault Refusal

/-- R33, R260: the machine right after reset. Every piece of the architectural state has the value the
spec states. The configuration is the reference instantiation (log 3); the host has nothing to present
yet and has been answered nothing (log 1, log 2). -/
def State.reset : State where
  regs := Vector.replicate 16 0
  rng := 0
  gridW := 0
  gridH := 0
  wq := []
  fsr := 0
  cfg := referenceCfg
  host := []
  responses := []

end Sys2Proof.Machine
end

