-- ==== Sys2Proof/Machine/Flags.lean ====
section
/-! DEFINITION. The status codes and the classes of the statuses (`60_exceptions.md` R230), and the
sticky register that records them (`10_state.md` R26, R232). The FXU has no other flag (R25). -/

namespace Sys2Proof.Machine

/-- R230, column *code*. -/
def statusCode : Status → BitVec 4
  | .ok => 0
  | .divisionByZero => 1
  | .invalidRange => 2
  | .domainError => 3
  | .saturated => 4
  | .illegalCommand => 5
  | .precondition => 6
  | .walkEnd => 7

/-- R230: the status of a code; the codes 8 to 15 are never produced. -/
def statusOfCode (code : BitVec 4) : Option Status :=
  [.ok, .divisionByZero, .invalidRange, .domainError, .saturated, .illegalCommand, .precondition,
    .walkEnd][code.toNat]?

/-- R230, column *class*: the five statuses that end a command with no effect but a bit of `FSR`. -/
def isFaultStatus : Status → Bool
  | .divisionByZero | .invalidRange | .domainError | .illegalCommand | .precondition => true
  | .ok | .saturated | .walkEnd => false

/-- R232: the bit of `FSR` that a status sets: bit `n` for the code `n` from 1 to 6, none for 0
and 7. -/
def fsrBit (st : Status) : BitVec 8 :=
  if 1 ≤ (statusCode st).toNat ∧ (statusCode st).toNat ≤ 6 then 1#8 <<< (statusCode st).toNat else 0#8

/-- R80: the 68 bits of a response, `STATUS` above `DATA`. -/
def responseBits (r : Response) : BitVec 68 := statusCode r.status ++ r.data

/-- R80: the response that 68 bits are, if their `STATUS` is the code of one. -/
def responseOfBits (bits : BitVec 68) : Option Response :=
  (statusOfCode (bits.extractLsb' 64 4)).map fun st =>
    { status := st, data := bits.extractLsb' 0 64 }

/-- R26: bit 1, `DZ`. -/
def State.fsrDZ (s : State) : Bool := s.fsr.getLsbD 1

/-- R26: bit 2, `IR`. -/
def State.fsrIR (s : State) : Bool := s.fsr.getLsbD 2

/-- R26: bit 3, `DE`. -/
def State.fsrDE (s : State) : Bool := s.fsr.getLsbD 3

/-- R26: bit 4, `SAT`. -/
def State.fsrSAT (s : State) : Bool := s.fsr.getLsbD 4

/-- R26: bit 5, `ILL`. -/
def State.fsrILL (s : State) : Bool := s.fsr.getLsbD 5

/-- R26: bit 6, `PRE`. -/
def State.fsrPRE (s : State) : Bool := s.fsr.getLsbD 6

end Sys2Proof.Machine
end

