-- ==== Sys2Proof/Machine/Numeric.lean ====
section
/-! DEFINITION. The helper functions of the spec's pseudocode on mathematical integers
(`00_scope.md` R10) and the FixedPoint constants (R8, R21). -/

namespace Sys2Proof.Machine

/-- R21 `kMax`: raw `2^63 - 1`. -/
def kMax : Int := 2 ^ 63 - 1

/-- R21 `kMin`: raw `-2^63`. -/
def kMin : Int := -2 ^ 63

/-- R21 `ONE`: raw 4096, the value 1.0. -/
def one : Int := 4096

/-- R10 `asr(v, n) = floor(v / 2^n)`. -/
def asr (v : Int) (n : Nat) : Int := v / 2 ^ n

/-- R10 `tdiv`: the quotient rounded toward zero. -/
def tdiv (a b : Int) : Int := Int.tdiv a b

/-- R10 `tmod(a, b) = a - b * tdiv(a, b)`. -/
def tmod (a b : Int) : Int := a - b * tdiv a b

/-- R10 `clamp64`. -/
def clamp64 (v : Int) : Int := if v > kMax then kMax else if v < kMin then kMin else v

/-- R10: `clamp64` changed the value. -/
def clamped64 (v : Int) : Bool := decide (clamp64 v ≠ v)

/-- R10 `neg64`: two's-complement negation; `neg64 kMin = kMin`. -/
def neg64 (v : Int) : Int := wrap64 (-v)

/-- One bit of the root per round, from bit `k - 1` down: `r` is the part of the root found so far. -/
def isqrtBits (n : Nat) : Nat → Nat → Nat
  | 0, r => r
  | k + 1, r => if (r + 2 ^ k) * (r + 2 ^ k) ≤ n then isqrtBits n k (r + 2 ^ k) else isqrtBits n k r

/-- R10 `isqrt`: the largest `r` with `r * r ≤ n`. -/
def isqrt (n : Nat) : Nat := isqrtBits n (n.log2 / 2 + 1) 0

end Sys2Proof.Machine
end

