-- ==== Sys2Proof/Machine/Operands.lean ====
section
/-! DEFINITION. How a command reads its source registers: the operand kinds of `00_scope.md` R13 and
the packing of a cell (`44_gridwalk.md` R190). -/

namespace Sys2Proof.Machine

/-- The 64-bit pattern of value register `f<r>` (R23). -/
def State.reg (s : State) (r : Reg) : Word := s.regs[r]

/-- R11 `x[r]`, the kinds FX and I64: the register read as a signed 64-bit integer. -/
def State.x (s : State) (r : Reg) : Int := s64 (s.reg r)

/-- R13, the kind U32: bits 31:0 of the register; bits 63:32 are ignored. -/
def State.xU32 (s : State) (r : Reg) : Word32 := (s.reg r).extractLsb' 0 32

/-- R13, the kind I32: bits 31:0 of the register read as signed; bits 63:32 are ignored. -/
def State.xI32 (s : State) (r : Reg) : Int := s32 (s.xU32 r)

/-- R190, the kind CELL: `{cy[31:0], cx[31:0]}`. -/
def packCell (c : Cell) : Word := c.cy ++ c.cx

/-- R190: the cell that a register of kind CELL holds. -/
def unpackCell (w : Word) : Cell := { cx := w.extractLsb' 0 32, cy := w.extractLsb' 32 32 }

end Sys2Proof.Machine
end

