-- ==== Sys2Proof/Machine/Ops.lean ====
section
/-! DEFINITION. The named operations over the state that every meaning is made of: the writes, the
response, the ways a command can end (`00_scope.md` R12, `60_exceptions.md` R231 to R234), and the host
events that are no command (R75, R260). The FXU has no data memory (R51) and nothing to return from
after a fault (R237). -/

namespace Sys2Proof.Machine

/-- R23: write a value register whole. -/
def State.setReg (s : State) (r : Reg) (v : Word) : State := { s with regs := s.regs.set r v }

/-- Write `RNG`. -/
def State.setRng (s : State) (w : Word32) : State := { s with rng := w }

/-- Write `GRID_W` and `GRID_H`. -/
def State.setGrid (s : State) (w h : Word32) : State := { s with gridW := w, gridH := h }

/-- Replace `WQ`. -/
def State.setWq (s : State) (q : List Cell) : State := { s with wq := q }

/-- R80, R232: produce the one response of a command, and record its status in `FSR`. -/
def State.answer (s : State) (st : Status) (data : Word) : State :=
  { s with fsr := s.fsr ||| fsrBit st, responses := s.responses ++ [{ status := st, data := data }] }

/-- R12, R231: `raise <Status>`, the whole architectural effect of a fault: no register and no system
state but the bit of `FSR`, and a response with `DATA` = 0. This is the FXU's taking of an exception;
nothing is saved and control goes nowhere (R237). -/
def State.raise (s : State) (st : Status) : State := s.answer st 0

/-- R12, R80: a command that writes `rd` completes, and its response carries the same 64 bits. -/
def State.deliver (s : State) (rd : Reg) (v : Word) (st : Status) : State :=
  (s.setReg rd v).answer st v

/-- R80: a command with no `rd` field completes with `DATA` = 0. -/
def State.complete (s : State) : State := s.answer .ok 0

/-- R234: `WNEXT` found `WQ` empty: no register written, `DATA` = 0, no bit of `FSR`. -/
def State.endOfWalk (s : State) : State := s.answer .walkEnd 0

/-- A computation that may raise: deliver its value to `rd` with status `OK`, or raise. -/
def State.deliverOrRaise (s : State) (rd : Reg) : Except Status Int → State
  | .ok v => s.deliver rd (u64 v) .ok
  | .error st => s.raise st

/-- R233: the status of a command whose result is clamped or not. -/
def saturationStatus (clamped : Bool) : Status := if clamped then .saturated else .ok

/-- R75: a packet that is no command: only `FSR.ILL` and the response. -/
def State.answerIllegal (s : State) : State := s.raise .illegalCommand

/-- R260: reset. All architectural state takes its reset value; the configuration is no state (R261),
and what the host still does and has been answered is the host's. -/
def State.assertReset (s : State) : State :=
  { State.reset with cfg := s.cfg, host := s.host, responses := s.responses }

/-- R70, R267: the next host event, and the state from which the unit meets it. -/
def State.takeEvent (s : State) : Option (HostEvent × State) :=
  match s.host with
  | [] => none
  | e :: rest => some (e, { s with host := rest })

/-- The host presents this packet next. -/
def State.present (s : State) (p : Packet) : State := { s with host := .command p :: s.host }

end Sys2Proof.Machine
end

