-- ==== Sys2Proof/Machine/GridWalk.lean ====
section
/-! DEFINITION. The grid line walker (`44_gridwalk.md`). -/

namespace Sys2Proof.Machine

/-- R190: `S = 2^18`, the cell edge 64.0 in raw units. -/
def cellEdge : Int := 2 ^ 18

/-- R190 `Cell(v) = asr(v, 18)`: the cell index of a coordinate. -/
def cellIndex (v : Int) : Int := asr v 18

/-- R195: the cell index fits in 32 signed bits. -/
def coordinateLegal (v : Int) : Bool :=
  decide (-2 ^ 31 ≤ cellIndex v) && decide (cellIndex v ≤ 2 ^ 31 - 1)

/-- R191: a walk in progress, at cell `(cx, cy)` with the error term `e`. -/
structure WalkPoint where
  /-- The cell's x index. -/
  cx : Int
  /-- The cell's y index. -/
  cy : Int
  /-- The error term. -/
  e : Int
  deriving DecidableEq, Repr

/-- R191 case 2: the numbers from `a` to `b` one by one, both ends included. -/
def stepsBetween (a b : Int) : List Int :=
  (List.range ((b - a).natAbs + 1)).map fun k => if a ≤ b then a + (k : Int) else a - (k : Int)

/-- R191 case 3: one step of the normalised walk. A tie, `e = 0`, goes along x (R193). -/
def walkStep (dx dy : Int) (p : WalkPoint) : WalkPoint :=
  if p.e ≤ 0 then { p with cx := p.cx + 1, e := p.e + cellEdge * (dy.natAbs : Int) }
  else { p with cy := p.cy + (if dy > 0 then 1 else -1), e := p.e - cellEdge * dx }

/-- The points of an iteration of `step`: the start and those after each of `n` steps. -/
def walkPoints (step : WalkPoint → WalkPoint) : Nat → WalkPoint → List WalkPoint
  | 0, p => [p]
  | n + 1, p => p :: walkPoints step n (step p)

/-- The cells of a list of points. -/
def cellsOf (ps : List WalkPoint) : List (Int × Int) := ps.map fun p => (p.cx, p.cy)

/-- R191 case 3: the distance from a coordinate to the next cell boundary in the direction of `d`. -/
def toBoundary (v d : Int) : Int := if d > 0 then cellEdge - v % cellEdge else v % cellEdge

/-- R191 case 3: the number of steps, `|Δcx| + |Δcy|`. -/
def walkLength (sx sy ex ey : Int) : Nat :=
  (cellIndex ex - cellIndex sx).natAbs + (cellIndex ey - cellIndex sy).natAbs

/-- R191 case 3 after the exchange, for `dx > 0`: the cells from the start to the end. -/
def walkForward (sx sy ex ey : Int) : List (Int × Int) :=
  cellsOf (walkPoints (walkStep (ex - sx) (ey - sy)) (walkLength sx sy ex ey)
    { cx := cellIndex sx, cy := cellIndex sy,
      e := toBoundary sx (ex - sx) * ((ey - sy).natAbs : Int) - toBoundary sy (ey - sy) * (ex - sx) })

/-- R191 `Walk(sx, sy, ex, ey)`: the same cell, a shared row, a shared column, and the general case,
normalised towards +x and reversed again. -/
def walkCells (sx sy ex ey : Int) : List (Int × Int) :=
  if cellIndex sx = cellIndex ex ∧ cellIndex sy = cellIndex ey then [(cellIndex sx, cellIndex sy)]
  else if cellIndex sy = cellIndex ey then
    (stepsBetween (cellIndex sx) (cellIndex ex)).map fun cx => (cx, cellIndex sy)
  else if cellIndex sx = cellIndex ex then
    (stepsBetween (cellIndex sy) (cellIndex ey)).map fun cy => (cellIndex sx, cy)
  else if ex < sx then (walkForward ex ey sx sy).reverse
  else walkForward sx sy ex ey

/-- R199: one step of the generator that neither exchanges nor reverses: the tie goes to x when
walking towards +x and to y when walking towards -x. -/
def directStep (dx dy : Int) (p : WalkPoint) : WalkPoint :=
  if p.e < 0 ∨ (p.e = 0 ∧ dx > 0) then
    { p with cx := p.cx + (if dx > 0 then 1 else -1), e := p.e + cellEdge * (dy.natAbs : Int) }
  else
    { p with cy := p.cy + (if dy > 0 then 1 else -1), e := p.e - cellEdge * (dx.natAbs : Int) }

/-- R199: the equivalent generator for the general case. `WALK` is defined by `walkCells`; that the
two agree is a statement. -/
def walkDirect (sx sy ex ey : Int) : List (Int × Int) :=
  cellsOf (walkPoints (directStep (ex - sx) (ey - sy)) (walkLength sx sy ex ey)
    { cx := cellIndex sx, cy := cellIndex sy,
      e := toBoundary sx (ex - sx) * ((ey - sy).natAbs : Int)
        - toBoundary sy (ey - sy) * ((ex - sx).natAbs : Int) })

/-- R29: a cell of a walk as the queue holds it. -/
def cellOf (c : Int × Int) : Cell := { cx := u32 c.1, cy := u32 c.2 }

/-- R195: the queue a walk leaves, or the fault of a coordinate out of range. -/
def walkQueue (sx sy ex ey : Int) : Except Status (List Cell) :=
  if coordinateLegal sx && coordinateLegal sy && coordinateLegal ex && coordinateLegal ey then
    .ok ((walkCells sx sy ex ey).map cellOf)
  else .error .precondition

/-- R196: the cell lies in `[0, GRID_W) x [0, GRID_H)`. -/
def insideGrid (w h : Word32) (c : Cell) : Bool :=
  decide (0 ≤ s32 c.cx) && decide (s32 c.cx < (w.toNat : Int)) &&
    (decide (0 ≤ s32 c.cy) && decide (s32 c.cy < (h.toNat : Int)))

/-- R195: replace `WQ`, or raise and leave it. -/
def State.queueOrRaise (s : State) : Except Status (List Cell) → State
  | .ok q => (s.setWq q).complete
  | .error st => s.raise st

/-- `SETGRID` (R194). -/
def execSetgrid (rs1 rs2 : Reg) (s : State) : Result :=
  .next (s.setGrid (s.xU32 rs1) (s.xU32 rs2)).complete

/-- `WALK` (R195). -/
def execWalk (rs1 rs2 rs3 rs4 : Reg) (s : State) : Result :=
  .next (s.queueOrRaise (walkQueue (s.x rs1) (s.x rs2) (s.x rs3) (s.x rs4)))

/-- `WALKB` (R196): the walk filtered by the bound as it is now. -/
def execWalkb (rs1 rs2 rs3 rs4 : Reg) (s : State) : Result :=
  .next (s.queueOrRaise
    ((walkQueue (s.x rs1) (s.x rs2) (s.x rs3) (s.x rs4)).map (List.filter (insideGrid s.gridW s.gridH))))

/-- `WNEXT` (R197). -/
def execWnext (rd : Reg) (s : State) : Result :=
  match s.wq with
  | [] => .next s.endOfWalk
  | c :: rest => .next ((s.setWq rest).deliver rd (packCell c) .ok)

end Sys2Proof.Machine
end

