-- ==== Sys2Proof/Machine/MoveConvert.lean ====
section
/-! DEFINITION. The move and conversion commands (`40_move_convert.md`). -/

namespace Sys2Proof.Machine

/-- R102: `wrap64(n * 4096)`. -/
def fxFromInt (n : Int) : Int := wrap64 (n * 4096)

/-- R103: `asr(a, 12)`, the floor of the real value. -/
def fxToInt (a : Int) : Int := asr a 12

/-- R104: `wrap64(tdiv(n * 4096, d))`, for a non-zero denominator. -/
def fxFromFrac (n d : Int) : Except Status Int :=
  if d = 0 then .error .divisionByZero else .ok (wrap64 (tdiv (n * 4096) d))

/-- `LDI` (R100). -/
def execLdi (rd : Reg) (imm : Word) (s : State) : Result := .next (s.deliver rd imm .ok)

/-- `MOV` (R101). -/
def execMov (rd rs1 : Reg) (s : State) : Result := .next (s.deliver rd (s.reg rs1) .ok)

/-- `FROMINT` (R102). -/
def execFromint (rd rs1 : Reg) (s : State) : Result :=
  .next (s.deliver rd (u64 (fxFromInt (s.x rs1))) .ok)

/-- `TOINT` (R103). -/
def execToint (rd rs1 : Reg) (s : State) : Result :=
  .next (s.deliver rd (u64 (fxToInt (s.x rs1))) .ok)

/-- `FROMFRAC` (R104). -/
def execFromfrac (rd rs1 rs2 : Reg) (s : State) : Result :=
  .next (s.deliverOrRaise rd (fxFromFrac (s.x rs1) (s.x rs2)))

end Sys2Proof.Machine
end

