-- ==== Sys2Proof/Machine/Random.lean ====
section
/-! DEFINITION. The random generator commands (`43_random.md`): the engine, the uniform sampler, and
the meanings. No result of this file depends on `CFG` (R179). -/

namespace Sys2Proof.Machine

/-! ### The engine (R170, R171) -/

/-- R170: the modulus `m = 2^31 - 1`. -/
def engineModulus : Nat := 2147483647

/-- R170: the multiplier `a`. -/
def engineMultiplier : Nat := 48271

/-- R170 `Next()`: the new state, which is also the output. -/
def engineNext (rng : Nat) : Nat := engineMultiplier * rng % engineModulus

/-- R171: the engine word that a seed gives; a seed that reduces to 0 becomes 1. -/
def seedEngine (seed : Nat) : Nat := if seed % engineModulus = 0 then 1 else seed % engineModulus

/-! ### The sampler (R174, R175) -/

/-- R170, R174: `R`, how many outputs the engine has. -/
def engineRange : Nat := 2147483646

/-- How many rounds a retry loop of the sampler may take before the command is refused: no loop needs
`2^31` engine steps (R265; log 5). -/
def samplerFuel : Nat := 2147483648

/-- R174: the parameters of `Bits(w, D)`. -/
structure SamplerShape where
  /-- `n`: the outputs to combine. -/
  n : Nat
  /-- `w0`: the bits of each of the first `n0` outputs. -/
  w0 : Nat
  /-- `y0`: the first threshold. -/
  y0 : Nat
  /-- `n0`: the outputs that give `w0` bits; the rest give `w0 + 1`. -/
  n0 : Nat
  /-- `y1`: the threshold of the rest. -/
  y1 : Nat
  deriving DecidableEq, Repr

/-- R174: `R` with its low `b` bits cleared. -/
def clearLow (b : Nat) : Nat := (engineRange >>> b) <<< b

/-- R174: `n` before the test for too much rejection. -/
def firstCount (w : Nat) : Nat := w / 30 + (if w % 30 ≠ 0 then 1 else 0)

/-- R174: `n` after the test `R - y0 > y0 div n`. -/
def outputCount (w : Nat) : Nat :=
  if engineRange - clearLow (w / firstCount w) > clearLow (w / firstCount w) / firstCount w
  then firstCount w + 1 else firstCount w

/-- R174: the parameters as functions of `w` alone, the table of R178. -/
def samplerShape (w : Nat) : SamplerShape where
  n := outputCount w
  w0 := w / outputCount w
  y0 := clearLow (w / outputCount w)
  n0 := outputCount w - w % outputCount w
  y1 := clearLow (w / outputCount w + 1)

/-- R174 `repeat: u = Next() - 1 until u < y`: the accepted `u` and the engine word after it. -/
def drawBelow (y : Nat) : Nat → Nat → Option (Nat × Nat)
  | 0, _ => none
  | fuel + 1, rng =>
    if engineNext rng - 1 < y then some (engineNext rng - 1, engineNext rng)
    else drawBelow y fuel (engineNext rng)

/-- R174: `count` accepted outputs of `bits` low bits each, appended below `acc`, modulo `2^D`. -/
def drawChunks (bits y D : Nat) : Nat → Nat → Nat → Option (Nat × Nat)
  | 0, acc, rng => some (acc, rng)
  | count + 1, acc, rng =>
    match drawBelow y samplerFuel rng with
    | none => none
    | some (u, rng') => drawChunks bits y D count (((acc <<< bits) + u % 2 ^ bits) % 2 ^ D) rng'

/-- R174 `Bits(w, D)`: the value and the engine word after it. -/
def drawBits (w D : Nat) (rng : Nat) : Option (Nat × Nat) :=
  match drawChunks (samplerShape w).w0 (samplerShape w).y0 D (samplerShape w).n0 0 rng with
  | none => none
  | some (acc, rng') =>
    drawChunks ((samplerShape w).w0 + 1) (samplerShape w).y1 D
      ((samplerShape w).n - (samplerShape w).n0) acc rng'

/-- R175 `repeat: u = Bits(w, D) until u < Rp`. -/
def drawInRange (w D rp : Nat) : Nat → Nat → Option (Nat × Nat)
  | 0, _ => none
  | fuel + 1, rng =>
    match drawBits w D rng with
    | none => none
    | some (u, rng') => if u < rp then some (u, rng') else drawInRange w D rp fuel rng'

/-- R175: the least `w` with `2^w ≥ n`, for `n ≥ 2`. -/
def bitsToCover (n : Nat) : Nat := (n - 1).log2 + 1

/-- R175: `Rp`, the range size modulo `2^D`. -/
def rangeSize (lo hi : Int) (D : Nat) : Nat := ((hi - lo + 1) % 2 ^ D).toNat

/-- R175: the offset `u` from `lo`, with the engine word after the draws it took. -/
def uniformOffset (rp D : Nat) (rng : Nat) : Option (Nat × Nat) :=
  if rp = 1 then some (0, rng)
  else if rp = 0 then drawBits D D rng
  else drawInRange (bitsToCover rp) D rp samplerFuel rng

/-- R175 `Uniform(lo, hi, D)`: the value, read as a signed `D`-bit integer, and the engine word. -/
def uniform (lo hi : Int) (D : Nat) (rng : Nat) : Option (Int × Nat) :=
  (uniformOffset (rangeSize lo hi D) D rng).map fun r => ((BitVec.ofInt D (lo + r.1)).toInt, r.2)

/-! ### The meanings -/

/-- `SEED` (R171). -/
def execSeed (rs1 : Reg) (s : State) : Result :=
  .next (s.setRng (BitVec.ofNat 32 (seedEngine (s.xU32 rs1).toNat))).complete

/-- `RNGGET` (R172). -/
def execRngget (rd : Reg) (s : State) : Result := .next (s.deliver rd (s.rng.zeroExtend 64) .ok)

/-- `RANDU32` (R173). -/
def execRandu32 (rd : Reg) (s : State) : Result :=
  if s.rng = 0 then .next (s.raise .precondition)
  else .next ((s.setRng (BitVec.ofNat 32 (engineNext s.rng.toNat))).deliver rd
    (BitVec.ofNat 64 (engineNext s.rng.toNat)) .ok)

/-- What a sampled value does: the engine word and `rd` are written; a sampler that ran through its
fuel is refused (log 5). -/
def State.deliverSample (s : State) (rd : Reg) : Option (Int × Nat) → Result
  | none => .refused .samplerFuelExhausted
  | some r => .next ((s.setRng (BitVec.ofNat 32 r.2)).deliver rd (u64 r.1) .ok)

/-- R176, R177: the two faults, unseeded before `max < min`, and the draw. -/
def State.sampleOrRaise (s : State) (rd : Reg) (lo hi : Int) (D : Nat) : Result :=
  if s.rng = 0 then .next (s.raise .precondition)
  else if hi < lo then .next (s.raise .invalidRange)
  else s.deliverSample rd (uniform lo hi D s.rng.toNat)

/-- `RANDI32` (R176). -/
def execRandi32 (rd rs1 rs2 : Reg) (s : State) : Result :=
  s.sampleOrRaise rd (s.xI32 rs1) (s.xI32 rs2) 32

/-- `RANDI64` (R177). -/
def execRandi64 (rd rs1 rs2 : Reg) (s : State) : Result :=
  s.sampleOrRaise rd (s.x rs1) (s.x rs2) 64

end Sys2Proof.Machine
end

