-- ==== Sys2Proof/Machine/Scalar.lean ====
section
/-! DEFINITION. The scalar fixed-point commands (`41_scalar_arith.md`): the function each computes on
raw values, and its meaning. -/

namespace Sys2Proof.Machine

/-- R111. -/
def fxAdd (a b : Int) : Int := wrap64 (a + b)

/-- R112. -/
def fxSub (a b : Int) : Int := wrap64 (a - b)

/-- R113: bits 75:12 of the exact product. -/
def fxMul (a b : Int) : Int := wrap64 (asr (a * b) 12)

/-- R114, for a non-zero divisor: the exact dividend, truncated, wrapped. -/
def fxQuotient (a b : Int) : Int := wrap64 (tdiv (a * 4096) b)

/-- R114. -/
def fxDiv (a b : Int) : Except Status Int :=
  if b = 0 then .error .divisionByZero else .ok (fxQuotient a b)

/-- R115. -/
def fxMod (a b : Int) : Except Status Int :=
  if b = 0 then .error .divisionByZero else .ok (tmod a b)

/-- R116: a zero bound is tested before a negative one. -/
def fxErem (a ub : Int) : Except Status Int :=
  if ub = 0 then .error .divisionByZero
  else if ub < 0 then .error .precondition
  else if a ≥ 0 then .ok (tmod a ub)
  else .ok (ub + tmod (a + 1) ub - 1)

/-- R117: `raw & kIntegerMask`. -/
def fxFloor (a : Int) : Int := s64 (u64 a &&& 0xFFFFFFFFFFFFF000#64)

/-- R118: negate, floor, negate. -/
def fxCeil (a : Int) : Int := neg64 (fxFloor (neg64 a))

/-- R119: decided by bit 11; ties go toward plus infinity (`90_conflicts.md` C1). -/
def fxRound (a : Int) : Int := if (u64 a).getLsbD 11 then fxCeil a else fxFloor a

/-- R120. -/
def fxAbs (a : Int) : Int := if a < 0 then neg64 a else a

/-- R121, for a non-negative operand: `isqrt(a) * 64`. -/
def fxRoot (a : Int) : Int := (isqrt a.toNat : Int) * 64

/-- R121. -/
def fxSqrt (a : Int) : Except Status Int :=
  if a < 0 then .error .domainError else .ok (fxRoot a)

/-- R122. -/
def fxShl (a : Int) (sh : Nat) : Int := wrap64 (a * 2 ^ sh)

/-- R123. -/
def fxShr (a : Int) (sh : Nat) : Int := asr a sh

/-- R124: the sign bits agree. -/
def fxSameSign (a b : Int) : Int := if (u64 a).getLsbD 63 = (u64 b).getLsbD 63 then 1 else 0

/-- R125. -/
def fxCmp (a b : Int) : Int := if a < b then -1 else if a = b then 0 else 1

/-- `ADD` (R111). -/
def execAdd (rd rs1 rs2 : Reg) (s : State) : Result :=
  .next (s.deliver rd (u64 (fxAdd (s.x rs1) (s.x rs2))) .ok)

/-- `SUB` (R112). -/
def execSub (rd rs1 rs2 : Reg) (s : State) : Result :=
  .next (s.deliver rd (u64 (fxSub (s.x rs1) (s.x rs2))) .ok)

/-- `MUL` (R113). -/
def execMul (rd rs1 rs2 : Reg) (s : State) : Result :=
  .next (s.deliver rd (u64 (fxMul (s.x rs1) (s.x rs2))) .ok)

/-- `DIV` (R114). -/
def execDiv (rd rs1 rs2 : Reg) (s : State) : Result :=
  .next (s.deliverOrRaise rd (fxDiv (s.x rs1) (s.x rs2)))

/-- `MOD` (R115). -/
def execMod (rd rs1 rs2 : Reg) (s : State) : Result :=
  .next (s.deliverOrRaise rd (fxMod (s.x rs1) (s.x rs2)))

/-- `EREM` (R116). -/
def execErem (rd rs1 rs2 : Reg) (s : State) : Result :=
  .next (s.deliverOrRaise rd (fxErem (s.x rs1) (s.x rs2)))

/-- `FLOOR` (R117). -/
def execFloor (rd rs1 : Reg) (s : State) : Result :=
  .next (s.deliver rd (u64 (fxFloor (s.x rs1))) .ok)

/-- `CEIL` (R118). -/
def execCeil (rd rs1 : Reg) (s : State) : Result :=
  .next (s.deliver rd (u64 (fxCeil (s.x rs1))) .ok)

/-- `ROUND` (R119). -/
def execRound (rd rs1 : Reg) (s : State) : Result :=
  .next (s.deliver rd (u64 (fxRound (s.x rs1))) .ok)

/-- `ABS` (R120). -/
def execAbs (rd rs1 : Reg) (s : State) : Result :=
  .next (s.deliver rd (u64 (fxAbs (s.x rs1))) .ok)

/-- `SQRT` (R121). -/
def execSqrt (rd rs1 : Reg) (s : State) : Result :=
  .next (s.deliverOrRaise rd (fxSqrt (s.x rs1)))

/-- `SHLI` (R122). -/
def execShli (rd rs1 : Reg) (sh : Nat) (s : State) : Result :=
  .next (s.deliver rd (u64 (fxShl (s.x rs1) sh)) .ok)

/-- `SHRI` (R123). -/
def execShri (rd rs1 : Reg) (sh : Nat) (s : State) : Result :=
  .next (s.deliver rd (u64 (fxShr (s.x rs1) sh)) .ok)

/-- `SAMESIGN` (R124). -/
def execSamesign (rd rs1 rs2 : Reg) (s : State) : Result :=
  .next (s.deliver rd (u64 (fxSameSign (s.x rs1) (s.x rs2))) .ok)

/-- `CMP` (R125). -/
def execCmp (rd rs1 rs2 : Reg) (s : State) : Result :=
  .next (s.deliver rd (u64 (fxCmp (s.x rs1) (s.x rs2))) .ok)

end Sys2Proof.Machine
end

