-- ==== Sys2Proof/Machine/System.lean ====
section
/-! DEFINITION. The system command (`45_system.md`). -/

namespace Sys2Proof.Machine

/-- R26: `FSR` as it reads, bits 0 and 7 hardwired to 0. -/
def State.fsrRead (s : State) : BitVec 8 := s.fsr &&& 0x7E#8

/-- `RDFSR` (R210): `FSR` zero-extended; reading does not clear it. -/
def execRdfsr (rd : Reg) (s : State) : Result := .next (s.deliver rd (s.fsrRead.zeroExtend 64) .ok)

end Sys2Proof.Machine
end

