-- ==== Sys2Proof/Machine/Transcendental.lean ====
section
/-! DEFINITION. The transcendental commands (`42_transcendental.md`). Each is built from the scalar
functions alone (R2, R140), reads the configuration `c` and no system state. -/

namespace Sys2Proof.Machine

/-! ### Power (R141, R142) -/

/-- R141 `smul`: the multiply with the final wrap replaced by a clamp, and whether it clamped. -/
def smul (a b : Int) : Int × Bool := (clamp64 (asr (a * b) 12), clamped64 (asr (a * b) 12))

/-- R142, the loop `while n > 0` of repeated squaring, least significant bit first. The first argument
bounds the rounds; `n` is halved in each, so 52 rounds empty every `n ≤ 2^51`. The flag says whether a
multiplication clamped so far. -/
def powInteger : Nat → Nat → Int → Int → Bool → Int × Bool
  | 0, _, res, _, sat => (res, sat)
  | rounds + 1, n, res, base, sat =>
    if n = 0 then (res, sat)
    else
      let product := if n % 2 = 1 then smul res base else (res, false)
      let square := if n / 2 > 0 then smul base base else (base, false)
      powInteger rounds (n / 2) product.1 square.1 (sat || product.2 || square.2)

/-- R142, the loop `for bit = 11 down to 0` over the fraction bits `f`, most significant first; the
first argument is `bit + 1`. It is left as soon as no set bit remains. -/
def powFraction : Nat → Nat → Int → Int → Bool → Int × Bool
  | 0, _, _, res, sat => (res, sat)
  | bit + 1, f, r, res, sat =>
    if f % 2 ^ (bit + 1) = 0 then (res, sat)
    else
      let root := fxRoot r
      let product := if f.testBit bit then smul res root else (res, false)
      powFraction bit f root product.1 (sat || product.2)

/-- R142: the power for the positive exponent `m`, and whether a multiplication clamped. -/
def powPositive (x : Int) (m : Nat) : Int × Bool :=
  let whole := powInteger 52 (m / 4096) one x false
  powFraction 12 (m % 4096) x whole.1 whole.2

/-- R142 `Pow(x, y)`: the value and whether it is reported `Saturated`, or the fault. -/
def fxPow (x y : Int) : Except Status (Int × Bool) :=
  if y = 0 then .ok (one, false)
  else if x = 0 then .ok (0, false)
  else if y.natAbs % 4096 ≠ 0 ∧ x < 0 then .error .domainError
  else
    let power := powPositive x y.natAbs
    if y < 0 then
      if power.1 = 0 then .error .divisionByZero
      else .ok (fxQuotient one power.1, power.2)
    else .ok power

/-! ### Exponential (R143) -/

/-- R143, the series: `count` terms are left, the next has the number `i`; the loop is left at a term
that is 0. -/
def expSeries (xr : Int) : Nat → Nat → Int → Int → Int
  | 0, _, sum, _ => sum
  | count + 1, i, sum, term =>
    let next := fxQuotient (fxMul term xr) (fxFromInt i)
    if next = 0 then sum else expSeries xr count (i + 1) (fxAdd sum next) next

/-- R143: `k`, the number of halvings or doublings, `TOINT(ROUND(MUL(x, K_INV_LN2)))`. -/
def expScale (c : Cfg) (x : Int) : Int := fxToInt (fxRound (fxMul x (s64 c.kInvLn2)))

/-- R143: the reduced argument `x' = x - k * K_LN2`. -/
def expReduced (c : Cfg) (x : Int) : Int := wrap64 (x - expScale c x * s64 c.kLn2)

/-- R143: the sum of the series at the reduced argument. -/
def expSum (c : Cfg) (x : Int) : Int := expSeries (expReduced c x) c.expTerms 1 one one

/-- R143: the sum rescaled by `2^k`, and whether it was clamped; no shift of 64 or more is carried
out as a shift. -/
def expRescale (sum k : Int) : Int × Bool :=
  if k ≥ 0 then (clamp64 (sum * 2 ^ k.toNat), clamped64 (sum * 2 ^ k.toNat))
  else if -k ≥ 64 then (0, false)
  else (asr sum (-k).toNat, false)

/-- R143 `Exp(x)`: the value and whether it is reported `Saturated`. -/
def fxExp (c : Cfg) (x : Int) : Int × Bool :=
  if x > s64 c.expInMax then (kMax, true)
  else if x < s64 c.expInMin then (0, false)
  else expRescale (expSum c x) (expScale c x)

/-! ### Sine and cosine (R144 to R146) -/

/-- R144 `TrigIndex(a)`: by the absolute value, with an exact product. -/
def trigIndex (c : Cfg) (a : Int) : Nat := a.natAbs * 512 / (s64 c.kTwoPi).toNat % 512

/-- R145. -/
def fxCos (c : Cfg) (a : Int) : Int := tableRead c.cosTable (trigIndex c a)

/-- R146: the entry for the absolute value, negated for a negative angle. -/
def fxSin (c : Cfg) (a : Int) : Int :=
  if a < 0 then neg64 (tableRead c.sinTable (trigIndex c a)) else tableRead c.sinTable (trigIndex c a)

/-! ### Arctangent (R147, R148) -/

/-- R147: the last index whose entry is at most `r` among the entries from index `j` on, or `best`. -/
def lastAtMost (r : Int) : List Word → Nat → Nat → Nat
  | [], _, best => best
  | t :: rest, j, best => lastAtMost r rest (j + 1) (if s64 t ≤ r then j else best)

/-- R147 `TanSearch(r)`: the largest `j` in `0..511` with `TAN_TABLE[j] ≤ r`, or 0 when there is
none. -/
def tanSearch (c : Cfg) (r : Int) : Nat := lastAtMost r (c.tanTable.take 512) 0 0

/-- R147: a binary search of the table, `rounds` probes between `lo` and `hi`. -/
def tanProbe (c : Cfg) (r : Int) : Nat → Nat → Nat → Nat
  | 0, lo, _ => lo
  | rounds + 1, lo, hi =>
    if tableRead c.tanTable ((lo + hi) / 2) ≤ r then tanProbe c r rounds ((lo + hi) / 2) hi
    else tanProbe c r rounds lo ((lo + hi) / 2)

/-- R147: the search in 9 probes that an implementation may use. `ATAN2` is defined by `tanSearch`;
that the two agree is a statement about every `CFG` of R216. -/
def tanBinarySearch (c : Cfg) (r : Int) : Nat := tanProbe c r 9 0 512

/-- R148: the ratio `|y / x|` as a raw value, exact. -/
def atanRatio (y x : Int) : Int := ((y.natAbs * 4096 / x.natAbs : Nat) : Int)

/-- R148: the first-quadrant angle, the table index as a fraction of a quarter turn. -/
def atanAngle (c : Cfg) (y x : Int) : Int := (tanSearch c (atanRatio y x) : Int) * s64 c.kHalfPi / 512

/-- R148 `Atan2(y, x)`. -/
def fxAtan2 (c : Cfg) (y x : Int) : Except Status Int :=
  if x = 0 then
    if y > 0 then .ok (s64 c.kHalfPi)
    else if y < 0 then .ok (s64 c.kPi + s64 c.kHalfPi)
    else .error .precondition
  else if x > 0 then
    if y ≥ 0 then .ok (atanAngle c y x)
    else if atanAngle c y x = 0 then .ok 0
    else .ok (s64 c.kTwoPi - atanAngle c y x)
  else
    if y ≥ 0 then .ok (s64 c.kPi - atanAngle c y x) else .ok (s64 c.kPi + atanAngle c y x)

/-! ### Degrees to radians (R149) -/

/-- R149: 360.0 as a raw value, `360 * 4096`. -/
def fullTurnDegrees : Int := 1474560

/-- R149 `ToRadian(d)`: the reduction by the truncating remainder comes first. -/
def fxToRad (c : Cfg) (d : Int) : Int :=
  fxQuotient (fxMul (tmod d fullTurnDegrees) (s64 c.kTwoPi)) fullTurnDegrees

/-! ### The meanings -/

/-- R142, R233: deliver a value that may be reported `Saturated`, or raise. -/
def State.deliverPower (s : State) (rd : Reg) : Except Status (Int × Bool) → State
  | .ok r => s.deliver rd (u64 r.1) (saturationStatus r.2)
  | .error st => s.raise st

/-- `POW` (R142). -/
def execPow (rd rs1 rs2 : Reg) (s : State) : Result :=
  .next (s.deliverPower rd (fxPow (s.x rs1) (s.x rs2)))

/-- `EXP` (R143). -/
def execExp (rd rs1 : Reg) (s : State) : Result :=
  .next (s.deliver rd (u64 (fxExp s.cfg (s.x rs1)).1) (saturationStatus (fxExp s.cfg (s.x rs1)).2))

/-- `COS` (R145). -/
def execCos (rd rs1 : Reg) (s : State) : Result :=
  .next (s.deliver rd (u64 (fxCos s.cfg (s.x rs1))) .ok)

/-- `SIN` (R146). -/
def execSin (rd rs1 : Reg) (s : State) : Result :=
  .next (s.deliver rd (u64 (fxSin s.cfg (s.x rs1))) .ok)

/-- `ATAN2` (R148): the first source is `y`, the second `x`. -/
def execAtan2 (rd rs1 rs2 : Reg) (s : State) : Result :=
  .next (s.deliverOrRaise rd (fxAtan2 s.cfg (s.x rs1) (s.x rs2)))

/-- `TORAD` (R149). -/
def execTorad (rd rs1 : Reg) (s : State) : Result :=
  .next (s.deliver rd (u64 (fxToRad s.cfg (s.x rs1))) .ok)

end Sys2Proof.Machine
end

