-- ==== Sys2Proof/Machine/Dispatch.lean ====
section
/-! DEFINITION. The dispatcher: one arm for each command of the opcode map (R74). -/

namespace Sys2Proof.Machine

def exec (i : Instr) (s : State) : Host.Outcome State Fault Refusal :=
  match i with
  | .ldi rd imm => Sys2Proof.Machine.execLdi rd imm s
  | .mov rd rs1 => Sys2Proof.Machine.execMov rd rs1 s
  | .fromint rd rs1 => Sys2Proof.Machine.execFromint rd rs1 s
  | .toint rd rs1 => Sys2Proof.Machine.execToint rd rs1 s
  | .fromfrac rd rs1 rs2 => Sys2Proof.Machine.execFromfrac rd rs1 rs2 s
  | .add rd rs1 rs2 => Sys2Proof.Machine.execAdd rd rs1 rs2 s
  | .sub rd rs1 rs2 => Sys2Proof.Machine.execSub rd rs1 rs2 s
  | .mul rd rs1 rs2 => Sys2Proof.Machine.execMul rd rs1 rs2 s
  | .div rd rs1 rs2 => Sys2Proof.Machine.execDiv rd rs1 rs2 s
  | .mod rd rs1 rs2 => Sys2Proof.Machine.execMod rd rs1 rs2 s
  | .erem rd rs1 rs2 => Sys2Proof.Machine.execErem rd rs1 rs2 s
  | .floor rd rs1 => Sys2Proof.Machine.execFloor rd rs1 s
  | .ceil rd rs1 => Sys2Proof.Machine.execCeil rd rs1 s
  | .round rd rs1 => Sys2Proof.Machine.execRound rd rs1 s
  | .abs rd rs1 => Sys2Proof.Machine.execAbs rd rs1 s
  | .sqrt rd rs1 => Sys2Proof.Machine.execSqrt rd rs1 s
  | .shli rd rs1 sh => Sys2Proof.Machine.execShli rd rs1 sh s
  | .shri rd rs1 sh => Sys2Proof.Machine.execShri rd rs1 sh s
  | .samesign rd rs1 rs2 => Sys2Proof.Machine.execSamesign rd rs1 rs2 s
  | .cmp rd rs1 rs2 => Sys2Proof.Machine.execCmp rd rs1 rs2 s
  | .pow rd rs1 rs2 => Sys2Proof.Machine.execPow rd rs1 rs2 s
  | .exp rd rs1 => Sys2Proof.Machine.execExp rd rs1 s
  | .cos rd rs1 => Sys2Proof.Machine.execCos rd rs1 s
  | .sin rd rs1 => Sys2Proof.Machine.execSin rd rs1 s
  | .atan2 rd rs1 rs2 => Sys2Proof.Machine.execAtan2 rd rs1 rs2 s
  | .torad rd rs1 => Sys2Proof.Machine.execTorad rd rs1 s
  | .seed rs1 => Sys2Proof.Machine.execSeed rs1 s
  | .rngget rd => Sys2Proof.Machine.execRngget rd s
  | .randu32 rd => Sys2Proof.Machine.execRandu32 rd s
  | .randi32 rd rs1 rs2 => Sys2Proof.Machine.execRandi32 rd rs1 rs2 s
  | .randi64 rd rs1 rs2 => Sys2Proof.Machine.execRandi64 rd rs1 rs2 s
  | .setgrid rs1 rs2 => Sys2Proof.Machine.execSetgrid rs1 rs2 s
  | .walk rs1 rs2 rs3 rs4 => Sys2Proof.Machine.execWalk rs1 rs2 rs3 rs4 s
  | .walkb rs1 rs2 rs3 rs4 => Sys2Proof.Machine.execWalkb rs1 rs2 rs3 rs4 s
  | .wnext rd => Sys2Proof.Machine.execWnext rd s
  | .rdfsr rd => Sys2Proof.Machine.execRdfsr rd s

end Sys2Proof.Machine
end

