-- ==== Sys2Proof/Machine/Port.lean ====
section
/-! DEFINITION. The ports: what the unit does with one event of the host (R70, R75, R260, R267), and the transport form of a response (R53). -/

namespace Sys2Proof.Machine

/-- R70, R75: the unit accepts a packet: it runs the command the packet encodes, or answers that it is
none. -/
def accept (p : Packet) (s : State) : Result :=
  match decode p with
  | .ok i => exec i s
  | .error _ => .next s.answerIllegal

/-- R260, R267: the unit meets one event. A command that reset meets in progress leaves no trace. -/
def meet (e : HostEvent) (s : State) : Result :=
  match e with
  | .command p => accept p s
  | .reset => .next s.assertReset
  | .resetDuring _ => .next s.assertReset

/-- R53, R80: a response as nine bytes, byte 0 carrying bits 7:0. The 68 bits end in the middle of
byte 8, whose upper half is free (log 12). -/
def responseBytes (r : Response) : List Byte :=
  littleEndian 9 (Cfg.responsePadding (responseBits r) ++ responseBits r).toNat

/-- R53: the response that bytes carry, whatever the upper half of byte 8 holds; bytes that are not
nine carry none (log 7). -/
def responseOfBytes (bytes : List Byte) : Option Response :=
  if bytes.length = 9 then responseOfBits (BitVec.ofNat 68 (ofLittleEndian bytes)) else none

end Sys2Proof.Machine
end

