-- ==== Sys2Proof/Machine/Step.lean ====
section
/-! DEFINITION. One step: the unit meets the next event of the host (R70, R267). -/

namespace Sys2Proof.Machine

/-- One step: one event of the host. With none to come the unit stays idle (R236). -/
def step (s : State) : Host.Outcome State Fault Refusal :=
  match s.takeEvent with
  | none => .next s
  | some (e, s') => meet e s'

/-- The state with an opcode-table word stored where `step` fetches: the host presents that packet
next (log 1). -/
def State.withFetchWord (s : State) (nbits w : Nat) : State := s.present (packetOfTableWord nbits w)

end Sys2Proof.Machine
end

