-- ==== Sys2Proof/Safety.lean ====
section
/-! DEFINITION. The terms the statements use: how a command may end (`60_exceptions.md` R231 to R235,
`30_encoding.md` R80), what it leaves unchanged, the invariant of the state, and the tables of the spec
that statements quantify over. -/

namespace Sys2Proof.Machine

/-- How a command ended: from `s` in `t`, with status `st` and `DATA` = `data`. `write` is the register
it wrote and the value, if it wrote one; `rng`, `grid` and `wq` are the system state it leaves. Every
field of the state is accounted for, so this is result and frame in one. -/
structure Ended (s t : State) (st : Status) (data : Word) (write : Option (Reg × Word))
    (rng : Word32) (grid : Word32 × Word32) (wq : List Cell) : Prop where
  /-- The register written holds the value. -/
  written : ∀ r v, write = some (r, v) → t.reg r = v
  /-- Every other register is as it was. -/
  kept : ∀ r, (∀ v, write ≠ some (r, v)) → t.reg r = s.reg r
  /-- The engine word. -/
  rng : t.rng = rng
  /-- The grid bound. -/
  grid : (t.gridW, t.gridH) = grid
  /-- The pending walk. -/
  wq : t.wq = wq
  /-- R232: bit `n` of `FSR` for the status code `n` from 1 to 6 is set; every other bit is as it
  was. -/
  fsr : ∀ n, n < 8 → t.fsr.getLsbD n =
    (s.fsr.getLsbD n || (decide (1 ≤ n) && decide (n ≤ 6) && decide ((statusCode st).toNat = n)))
  /-- R80: exactly one response. -/
  responses : t.responses = s.responses ++ [{ status := st, data := data }]
  /-- R30: the configuration. -/
  cfg : t.cfg = s.cfg
  /-- What the host still does. -/
  host : t.host = s.host

/-- The command wrote `v` to `rd`, answered it with status `st`, and changed nothing else. -/
def Wrote (s t : State) (rd : Reg) (v : Word) (st : Status) : Prop :=
  Ended s t st v (some (rd, v)) s.rng (s.gridW, s.gridH) s.wq

/-- R231: the command raised `st`: no register, no system state but the bit of `FSR`, `DATA` = 0. -/
def Raised (s t : State) (st : Status) : Prop :=
  Ended s t st 0 none s.rng (s.gridW, s.gridH) s.wq

/-- The command drew from the engine: it left the engine word `rng`, wrote `v` to `rd` with status
`OK`, and changed nothing else. -/
def Drew (s t : State) (rd : Reg) (v : Word) (rng : Word32) : Prop :=
  Ended s t .ok v (some (rd, v)) rng (s.gridW, s.gridH) s.wq

/-- The command queued the cells `q`, wrote no register, answered `OK` with `DATA` = 0, and changed
nothing else. -/
def Queued (s t : State) (q : List Cell) : Prop :=
  Ended s t .ok 0 none s.rng (s.gridW, s.gridH) q

/-- The destination register of a command, for the formats with an `rd` field (R72). -/
def destOf : Instr → Option Reg
  | .ldi rd _ | .rngget rd | .randu32 rd | .wnext rd | .rdfsr rd => some rd
  | .mov rd _ | .fromint rd _ | .toint rd _ | .floor rd _ | .ceil rd _ | .round rd _ | .abs rd _
  | .sqrt rd _ | .exp rd _ | .cos rd _ | .sin rd _ | .torad rd _ => some rd
  | .fromfrac rd _ _ | .add rd _ _ | .sub rd _ _ | .mul rd _ _ | .div rd _ _ | .mod rd _ _
  | .erem rd _ _ | .samesign rd _ _ | .cmp rd _ _ | .pow rd _ _ | .atan2 rd _ _ | .randi32 rd _ _
  | .randi64 rd _ _ => some rd
  | .shli rd _ _ | .shri rd _ _ => some rd
  | .seed .. | .setgrid .. | .walk .. | .walkb .. => none

/-- R27: the commands that write `RNG`. -/
def writesRng : Instr → Bool
  | .seed .. | .randu32 .. | .randi32 .. | .randi64 .. => true
  | _ => false

/-- R28: the command that writes `GRID_W` and `GRID_H`. -/
def writesGrid : Instr → Bool
  | .setgrid .. => true
  | _ => false

/-- R29: the commands that write `WQ`. -/
def writesWq : Instr → Bool
  | .walk .. | .walkb .. | .wnext .. => true
  | _ => false

/-- R265: the two commands whose sampling loops the spec does not bound. -/
def isSampler : Instr → Bool
  | .randi32 .. | .randi64 .. => true
  | _ => false

/-- R240: the statuses a decoded command can end with. -/
def statusesOf : Instr → List Status
  | .fromfrac .. | .div .. | .mod .. => [.divisionByZero, .ok]
  | .erem .. => [.divisionByZero, .precondition, .ok]
  | .sqrt .. => [.domainError, .ok]
  | .pow .. => [.domainError, .divisionByZero, .saturated, .ok]
  | .exp .. => [.saturated, .ok]
  | .atan2 .. | .randu32 .. | .walk .. | .walkb .. => [.precondition, .ok]
  | .randi32 .. | .randi64 .. => [.precondition, .invalidRange, .ok]
  | .wnext .. => [.walkEnd, .ok]
  | _ => [.ok]

/-- R74: the opcode map, the number and the format of each of the 36 commands, in the table's order. -/
def opcodeMap : List (Nat × Format) :=
  [(0x01, .D), (0x02, .DS), (0x03, .DS), (0x04, .DS), (0x05, .DSS),
   (0x10, .DSS), (0x11, .DSS), (0x12, .DSS), (0x13, .DSS), (0x14, .DSS), (0x15, .DSS),
   (0x16, .DS), (0x17, .DS), (0x18, .DS), (0x19, .DS), (0x1A, .DS),
   (0x1B, .DSI), (0x1C, .DSI), (0x1D, .DSS), (0x1E, .DSS),
   (0x20, .DSS), (0x21, .DS), (0x22, .DS), (0x23, .DS), (0x24, .DSS), (0x25, .DS),
   (0x30, .S), (0x31, .D), (0x32, .D), (0x33, .DSS), (0x34, .DSS),
   (0x40, .SS), (0x41, .S4), (0x42, .S4), (0x43, .D), (0x50, .D)]

/-- R71, R74: the opcode and the format a command is encoded with. -/
def Encoded (i : Instr) (op : Nat) (f : Format) : Prop := (opcodeOf i).toNat = op ∧ formatOf i = f

/-- R72: the command word is one of the opcode `op` in the format `f`. -/
def matchesRow (cw : Word32) (row : Nat × Format) : Prop :=
  cw &&& formatMask row.2 = BitVec.ofNat 32 (row.1 * 2 ^ 24)

/-- R27, R170, R171: the engine word is one that a seeded generator holds. -/
def State.seeded (s : State) : Prop := 1 ≤ s.rng.toNat ∧ s.rng.toNat ≤ 2147483646

/-- The invariant of the state. R27: a legal engine word. R26: bits 0 and 7 of `FSR` are 0. R29: the
length of `WQ`. R216: the configuration meets its constraints. -/
structure State.Inv (s : State) : Prop where
  /-- R27: 0 or `1 .. 2^31 - 2`. -/
  rng : s.rng.toNat ≤ 2147483646
  /-- R26: bit 0 of `FSR`. -/
  fsr0 : s.fsr.getLsbD 0 = false
  /-- R26: bit 7 of `FSR`. -/
  fsr7 : s.fsr.getLsbD 7 = false
  /-- R29: at most `2^33 - 1` cells. -/
  wq : s.wq.length ≤ 2 ^ 33 - 1
  /-- R216. -/
  cfg : cfgValid s.cfg = true

/-- The state's next event is no assertion of reset. -/
def State.noReset (s : State) : Prop :=
  ∀ e ∈ s.host.head?, e ≠ .reset ∧ ∀ p, e ≠ .resetDuring p

/-- R33, R20: every piece of the architectural state has its reset value. -/
structure State.AtReset (s : State) : Prop where
  /-- `f0` .. `f15`. -/
  regs : ∀ r, s.reg r = 0
  /-- `RNG`. -/
  rng : s.rng = 0
  /-- `GRID_W`. -/
  gridW : s.gridW = 0
  /-- `GRID_H`. -/
  gridH : s.gridH = 0
  /-- `WQ`. -/
  wq : s.wq = []
  /-- `FSR`. -/
  fsr : s.fsr = 0

/-- R191: two cells that follow each other in a walk: one coordinate changes, by one. -/
def adjacent (a b : Int × Int) : Prop :=
  ((a.1 - b.1).natAbs = 1 ∧ a.2 = b.2) ∨ (a.1 = b.1 ∧ (a.2 - b.2).natAbs = 1)

/-- R195: the four coordinates of a walk are in `[-2^49, 2^49)`. -/
def coordinatesLegal (sx sy ex ey : Int) : Prop :=
  ∀ v ∈ [sx, sy, ex, ey], -2 ^ 49 ≤ v ∧ v < 2 ^ 49

end Sys2Proof.Machine
end

