-- ==== Sys2Proof/Certificates/Slice0/Obligations.lean ====
section
/-! DEFINITION. The statements for the provers. Each docstring names the rule of `spec/` that the
statement formalises, or says that it is the model's own. `Ended` and its short forms (`Wrote`,
`Raised`, `Drew`, `Queued`) account for every field of the state, so a statement made with them is the
result and the frame in one. The FXU has no memory (R51). -/

open Sys2Proof Sys2Proof.Machine

/-! ### Encoding, decoding and the step -/

/-- R71, R72, R74: decoding the encoding of a well-formed command gives the command back. -/
def Obligations.DecodeOfEncodedInstruction : Prop :=
  ∀ i : Instr, i.wellFormed = true → decode (encode i) = .ok i

/-- R75, "Nothing is decoded loosely": a packet that decodes to a command has that command's word, and
`LDI`'s immediate is the payload. -/
def Obligations.DecodedPacketIsItsEncoding : Prop :=
  ∀ (p : Packet) (i : Instr), decode p = .ok i →
    i.wellFormed = true ∧ encodeWord i = p.cw ∧ ∀ rd imm, i = .ldi rd imm → p.payload = imm

/-- R72: a word encodes the command with a given opcode and format exactly when the masked word is the
opcode shifted to bits 31:24. -/
def Obligations.CommandWordsAreTheMaskedWords : Prop :=
  ∀ (cw : Word32) (payload : Word) (row : Nat × Format), row ∈ opcodeMap →
    ((∃ i, decode { cw := cw, payload := payload } = .ok i ∧ Encoded i row.1 row.2) ↔
      cw &&& formatMask row.2 = BitVec.ofNat 32 (row.1 * 2 ^ 24))

/-- R75: a word that matches no row of the opcode map is answered with `IllegalCommand`, and nothing
but `FSR.ILL` changes. -/
def Obligations.IllegalWordIsAnswered : Prop :=
  ∀ (s : State) (p : Packet), (∀ row ∈ opcodeMap, ¬ matchesRow p.cw row) →
    ∃ t, step (s.present p) = .next t ∧ Raised s t .illegalCommand

/-- R70: the step whose next event is a packet that decodes to `i` is `exec i`, with the event taken
from the host's list and nothing else around it. -/
def Obligations.StepRunsTheDecodedCommand : Prop :=
  ∀ (s : State) (p : Packet) (i : Instr) (rest : List HostEvent),
    s.host = .command p :: rest → decode p = .ok i → step s = exec i { s with host := rest }

/-- R70: every command but `LDI` (opcode `0x01`) ignores the payload. -/
def Obligations.PayloadIsForLdiAlone : Prop :=
  ∀ (s : State) (cw : Word32) (a b : Word), opField cw ≠ 0x01 →
    accept { cw := cw, payload := a } s = accept { cw := cw, payload := b } s

/-- R53: a command packet travels as twelve bytes, byte `k` carrying bits `8k+7 : 8k`, and decodes from
them to what it decodes to. A response travels as nine, in the same order, its four bits of `STATUS`
(R80) in the lower half of byte 8, and is read from them; the upper half of byte 8 is free (log 12). -/
def Obligations.PacketBytesCarryThePacket : Prop :=
  (∀ p : Packet, (packetBytes p).length = 12 ∧
    (∀ k, k < 12 → (packetBytes p)[k]? = some (BitVec.ofNat 8 (packetBits p / 2 ^ (8 * k)))) ∧
    decodeBytes (packetBytes p) = decode p) ∧
  (∀ r : Response, (responseBytes r).length = 9 ∧
    (∀ k, k < 8 → (responseBytes r)[k]? = some (BitVec.ofNat 8 (r.data.toNat / 2 ^ (8 * k)))) ∧
    (∃ b, (responseBytes r)[8]? = some b ∧ b.extractLsb' 0 4 = statusCode r.status) ∧
    responseOfBytes (responseBytes r) = some r)

/-- R74 on words written out from the table: one of each format. -/
def Obligations.SampleWordsDecode : Prop :=
  decode { cw := 0x01F00000, payload := 7 } = .ok (.ldi 15 7) ∧
  decode { cw := 0x1A310000, payload := 0 } = .ok (.sqrt 3 1) ∧
  decode { cw := 0x10312000, payload := 0 } = .ok (.add 3 1 2) ∧
  decode { cw := 0x1B31FC00, payload := 0 } = .ok (.shli 3 1 63) ∧
  decode { cw := 0x30050000, payload := 0 } = .ok (.seed 5) ∧
  decode { cw := 0x40056000, payload := 0 } = .ok (.setgrid 5 6) ∧
  decode { cw := 0x41001230, payload := 0 } = .ok (.walk 0 1 2 3) ∧
  decode { cw := 0x50300000, payload := 0 } = .ok (.rdfsr 3)

/-! ### Reset, and what every step keeps -/

/-- R33, R260: the state after reset, and what asserting reset leaves, also while a command is in
progress. That the configuration, the host's list and the responses so far stay is the model's own
(logs 1, 2, 3; R261 for the configuration). -/
def Obligations.ResetLeavesTheResetState : Prop :=
  State.reset.AtReset ∧
  ∀ (s : State) (e : HostEvent) (rest : List HostEvent), s.host = e :: rest →
    (e = .reset ∨ ∃ p, e = .resetDuring p) →
    ∃ t, step s = .next t ∧ t.AtReset ∧ t.cfg = s.cfg ∧ t.host = rest ∧ t.responses = s.responses

/-- R265, R238: every command is answered, in every state. What the model refuses for want of fuel
(log 5) is a draw from an engine word that no run reaches (log 10). -/
def Obligations.EveryCommandIsAnswered : Prop :=
  ∀ (i : Instr) (s : State), (∃ t, exec i s = .next t) ∨
    (isSampler i = true ∧ 2147483646 < s.rng.toNat ∧ exec i s = .refused .samplerFuelExhausted)

/-- R70, R260: one response for an accepted packet, none for a reset, and nothing at all while the host
does nothing. -/
def Obligations.OneResponsePerAcceptedPacket : Prop :=
  ∀ s t : State, step s = .next t →
    (s.host = [] → t = s) ∧
    (∀ p rest, s.host = .command p :: rest →
      t.host = rest ∧ ∃ r, t.responses = s.responses ++ [r]) ∧
    (∀ e rest, s.host = e :: rest → (e = .reset ∨ ∃ p, e = .resetDuring p) →
      t.host = rest ∧ t.responses = s.responses)

/-- R26, R27, R29, R216: every step keeps the invariant of the state. -/
def Obligations.StepKeepsTheInvariant : Prop :=
  ∀ s t : State, s.Inv → step s = .next t → t.Inv

/-- The state after reset meets the invariant (R33; that the reference configuration meets R216, which
R217 says, is about the model's choice of log 3). -/
def Obligations.ResetMeetsTheInvariant : Prop := State.reset.Inv

/-- R170, R171: a seeded generator stays seeded until reset. -/
def Obligations.SeededGeneratorStaysSeeded : Prop :=
  ∀ s t : State, s.seeded → s.noReset → step s = .next t → t.seeded

/-- R232: a command that ends with a status of code 1 to 6 sets that bit of `FSR` and changes no other;
no step but a reset clears a bit. -/
def Obligations.StatusIsRecordedUntilReset : Prop :=
  (∀ (p : Packet) (s t : State), accept p s = .next t →
    ∃ st d, t.responses = s.responses ++ [{ status := st, data := d }] ∧
      ∀ n, n < 8 → t.fsr.getLsbD n = (s.fsr.getLsbD n ||
        (decide (1 ≤ n) && decide (n ≤ 6) && decide ((statusCode st).toNat = n)))) ∧
  (∀ s t : State, s.noReset → step s = .next t →
    ∀ n, s.fsr.getLsbD n = true → t.fsr.getLsbD n = true)

/-- R215, R261: no command and no reset changes the configuration. -/
def Obligations.ConfigurationNeverChanges : Prop :=
  ∀ s t : State, step s = .next t → t.cfg = s.cfg

/-- R20, column *written by*: which commands may change `RNG`, the grid bound, `WQ`, and a register. -/
def Obligations.OnlyTheNamedCommandsWrite : Prop :=
  ∀ (i : Instr) (s t : State), exec i s = .next t →
    (writesRng i = false → t.rng = s.rng) ∧
    (writesGrid i = false → t.gridW = s.gridW ∧ t.gridH = s.gridH) ∧
    (writesWq i = false → t.wq = s.wq) ∧
    (∀ r, destOf i ≠ some r → t.reg r = s.reg r)

/-- R231: a packet whose response carries a fault status has changed nothing but one bit of `FSR`. -/
def Obligations.FaultChangesNothingElse : Prop :=
  ∀ (p : Packet) (s t : State) (st : Status) (d : Word), accept p s = .next t →
    t.responses = s.responses ++ [{ status := st, data := d }] → isFaultStatus st = true →
    Raised s t st

/-- R240: the statuses with which each command can end. -/
def Obligations.StatusesOfEachCommand : Prop :=
  ∀ (i : Instr) (s t : State) (st : Status) (d : Word), exec i s = .next t →
    t.responses = s.responses ++ [{ status := st, data := d }] → st ∈ statusesOf i

/-- R80: `DATA` is what was written to `rd`, or 0. -/
def Obligations.DataIsTheWrittenValue : Prop :=
  ∀ (i : Instr) (s t : State) (st : Status) (d : Word), exec i s = .next t →
    t.responses = s.responses ++ [{ status := st, data := d }] →
    (∀ rd, destOf i = some rd → (st = .ok ∨ st = .saturated) → d = t.reg rd) ∧
    (destOf i = none → d = 0) ∧
    (isFaultStatus st = true ∨ st = .walkEnd → d = 0)

/-! ### Move and conversion -/

/-- R100, R101. -/
def Obligations.LoadAndCopyResults : Prop :=
  ∀ (s : State) (rd rs1 : Reg) (imm : Word),
    (Encoded (.ldi rd imm) 0x01 .D ∧
      ∃ t, exec (.ldi rd imm) s = .next t ∧ Wrote s t rd imm .ok) ∧
    (Encoded (.mov rd rs1) 0x02 .DS ∧
      ∃ t, exec (.mov rd rs1) s = .next t ∧ Wrote s t rd (s.reg rs1) .ok)

/-- R102, R103 (`/` on integers with a positive divisor is the floor quotient). -/
def Obligations.IntegerConversionResults : Prop :=
  ∀ (s : State) (rd rs1 : Reg),
    (Encoded (.fromint rd rs1) 0x03 .DS ∧
      ∃ t, exec (.fromint rd rs1) s = .next t ∧ Wrote s t rd (u64 (s.x rs1 * 4096)) .ok) ∧
    (Encoded (.toint rd rs1) 0x04 .DS ∧
      ∃ t, exec (.toint rd rs1) s = .next t ∧ Wrote s t rd (u64 (s.x rs1 / 4096)) .ok)

/-- R126, last two rows: the two conversions between integers and FixedPoint values. -/
def Obligations.IntegerRoundTrips : Prop :=
  (∀ n : Int, -2 ^ 51 ≤ n → n < 2 ^ 51 → fxToInt (fxFromInt n) = n) ∧
  (∀ a : Int, -2 ^ 63 ≤ a → a < 2 ^ 63 → fxFromInt (fxToInt a) = fxFloor a)

/-- R104. -/
def Obligations.FractionResult : Prop :=
  ∀ (s : State) (rd rs1 rs2 : Reg), Encoded (.fromfrac rd rs1 rs2) 0x05 .DSS ∧
    (s.x rs2 ≠ 0 → ∃ t, exec (.fromfrac rd rs1 rs2) s = .next t ∧
      Wrote s t rd (u64 (Int.tdiv (s.x rs1 * 4096) (s.x rs2))) .ok) ∧
    (s.x rs2 = 0 → ∃ t, exec (.fromfrac rd rs1 rs2) s = .next t ∧ Raised s t .divisionByZero)

/-! ### Scalar arithmetic -/

/-- R111, R112: the sum and the difference of the 64-bit patterns. -/
def Obligations.AddAndSubtractResults : Prop :=
  ∀ (s : State) (rd rs1 rs2 : Reg),
    (Encoded (.add rd rs1 rs2) 0x10 .DSS ∧
      ∃ t, exec (.add rd rs1 rs2) s = .next t ∧ Wrote s t rd (s.reg rs1 + s.reg rs2) .ok) ∧
    (Encoded (.sub rd rs1 rs2) 0x11 .DSS ∧
      ∃ t, exec (.sub rd rs1 rs2) s = .next t ∧ Wrote s t rd (s.reg rs1 - s.reg rs2) .ok)

/-- R113, "the result is bits 75:12 of the product", the exact signed 128-bit product. -/
def Obligations.MultiplyResult : Prop :=
  ∀ (s : State) (rd rs1 rs2 : Reg), Encoded (.mul rd rs1 rs2) 0x12 .DSS ∧
    ∃ t, exec (.mul rd rs1 rs2) s = .next t ∧
      Wrote s t rd
        (((s.reg rs1).signExtend 128 * (s.reg rs2).signExtend 128).extractLsb' 12 64) .ok

/-- R114, R115. -/
def Obligations.DivideAndRemainderResults : Prop :=
  ∀ (s : State) (rd rs1 rs2 : Reg),
    Encoded (.div rd rs1 rs2) 0x13 .DSS ∧ Encoded (.mod rd rs1 rs2) 0x14 .DSS ∧
    (s.x rs2 ≠ 0 →
      (∃ t, exec (.div rd rs1 rs2) s = .next t ∧
        Wrote s t rd (u64 (Int.tdiv (s.x rs1 * 4096) (s.x rs2))) .ok) ∧
      (∃ t, exec (.mod rd rs1 rs2) s = .next t ∧
        Wrote s t rd (u64 (Int.tmod (s.x rs1) (s.x rs2))) .ok)) ∧
    (s.x rs2 = 0 →
      (∃ t, exec (.div rd rs1 rs2) s = .next t ∧ Raised s t .divisionByZero) ∧
      (∃ t, exec (.mod rd rs1 rs2) s = .next t ∧ Raised s t .divisionByZero))

/-- R116: the non-negative residue (`%` on integers with a positive divisor), and the two faults. -/
def Obligations.EuclideanRemainderResult : Prop :=
  ∀ (s : State) (rd rs1 rs2 : Reg), Encoded (.erem rd rs1 rs2) 0x15 .DSS ∧
    (0 < s.x rs2 → ∃ t, exec (.erem rd rs1 rs2) s = .next t ∧
      Wrote s t rd (u64 (s.x rs1 % s.x rs2)) .ok) ∧
    (s.x rs2 = 0 → ∃ t, exec (.erem rd rs1 rs2) s = .next t ∧ Raised s t .divisionByZero) ∧
    (s.x rs2 < 0 → ∃ t, exec (.erem rd rs1 rs2) s = .next t ∧ Raised s t .precondition)

/-- R117, R118, R119: the multiple of 4096 at or below, the one at or above, and the nearest with ties
toward plus infinity, each kept to 64 bits. -/
def Obligations.FloorCeilRoundResults : Prop :=
  ∀ (s : State) (rd rs1 : Reg),
    (Encoded (.floor rd rs1) 0x16 .DS ∧ ∃ t, exec (.floor rd rs1) s = .next t ∧
      Wrote s t rd (u64 (4096 * (s.x rs1 / 4096))) .ok) ∧
    (Encoded (.ceil rd rs1) 0x17 .DS ∧ ∃ t, exec (.ceil rd rs1) s = .next t ∧
      Wrote s t rd (u64 (4096 * -(-(s.x rs1) / 4096))) .ok) ∧
    (Encoded (.round rd rs1) 0x18 .DS ∧ ∃ t, exec (.round rd rs1) s = .next t ∧
      Wrote s t rd (u64 (4096 * ((s.x rs1 + 2048) / 4096))) .ok)

/-- R120: the low 64 bits of the mathematical absolute value. -/
def Obligations.AbsoluteValueResult : Prop :=
  ∀ (s : State) (rd rs1 : Reg), Encoded (.abs rd rs1) 0x19 .DS ∧
    ∃ t, exec (.abs rd rs1) s = .next t ∧ Wrote s t rd (BitVec.ofNat 64 (s.x rs1).natAbs) .ok

/-- R121: 64 times the largest `n` with `n * n` at most the operand. -/
def Obligations.SquareRootResult : Prop :=
  ∀ (s : State) (rd rs1 : Reg), Encoded (.sqrt rd rs1) 0x1A .DS ∧
    (0 ≤ s.x rs1 → ∃ t, ∃ n : Nat, exec (.sqrt rd rs1) s = .next t ∧
      Wrote s t rd (BitVec.ofNat 64 (n * 64)) .ok ∧
      (n : Int) * n ≤ s.x rs1 ∧ s.x rs1 < ((n : Int) + 1) * ((n : Int) + 1)) ∧
    (s.x rs1 < 0 → ∃ t, exec (.sqrt rd rs1) s = .next t ∧ Raised s t .domainError)

/-- R122, R123: the shifts of the 64-bit pattern. -/
def Obligations.ShiftResults : Prop :=
  ∀ (s : State) (rd rs1 : Reg) (sh : Nat),
    (Encoded (.shli rd rs1 sh) 0x1B .DSI ∧
      ∃ t, exec (.shli rd rs1 sh) s = .next t ∧ Wrote s t rd (s.reg rs1 <<< sh) .ok) ∧
    (Encoded (.shri rd rs1 sh) 0x1C .DSI ∧
      ∃ t, exec (.shri rd rs1 sh) s = .next t ∧ Wrote s t rd ((s.reg rs1).sshiftRight sh) .ok)

/-- R124, R125: 1 or 0 by the signs, 0 counting as positive; the sign of the difference. -/
def Obligations.SignAndOrderResults : Prop :=
  ∀ (s : State) (rd rs1 rs2 : Reg),
    (Encoded (.samesign rd rs1 rs2) 0x1D .DSS ∧ ∃ t, exec (.samesign rd rs1 rs2) s = .next t ∧
      Wrote s t rd (if (0 ≤ s.x rs1 ↔ 0 ≤ s.x rs2) then 1 else 0) .ok) ∧
    (Encoded (.cmp rd rs1 rs2) 0x1E .DSS ∧ ∃ t, exec (.cmp rd rs1 rs2) s = .next t ∧
      Wrote s t rd (u64 (Int.sign (s.x rs1 - s.x rs2))) .ok)

/-! ### Power and exponential -/

/-- R142: the special cases, the two faults, and the power or its reciprocal, reported `Saturated` when
a multiplication clamped. `powPositive` is the model's transcription of the two loops. -/
def Obligations.PowerResults : Prop :=
  ∀ (s : State) (rd rs1 rs2 : Reg), Encoded (.pow rd rs1 rs2) 0x20 .DSS ∧
    (s.x rs2 = 0 → ∃ t, exec (.pow rd rs1 rs2) s = .next t ∧ Wrote s t rd 4096 .ok) ∧
    (s.x rs2 ≠ 0 → s.x rs1 = 0 → ∃ t, exec (.pow rd rs1 rs2) s = .next t ∧ Wrote s t rd 0 .ok) ∧
    (s.x rs1 < 0 → (s.x rs2).natAbs % 4096 ≠ 0 →
      ∃ t, exec (.pow rd rs1 rs2) s = .next t ∧ Raised s t .domainError) ∧
    (s.x rs2 ≠ 0 → s.x rs1 ≠ 0 → (0 < s.x rs1 ∨ (s.x rs2).natAbs % 4096 = 0) →
      ∀ power clamped, powPositive (s.x rs1) (s.x rs2).natAbs = (power, clamped) →
      (0 < s.x rs2 → ∃ t, exec (.pow rd rs1 rs2) s = .next t ∧
        Wrote s t rd (u64 power) (if clamped then .saturated else .ok)) ∧
      (s.x rs2 < 0 → power ≠ 0 → ∃ t, exec (.pow rd rs1 rs2) s = .next t ∧
        Wrote s t rd (u64 (Int.tdiv (4096 * 4096) power)) (if clamped then .saturated else .ok)) ∧
      (s.x rs2 < 0 → power = 0 →
        ∃ t, exec (.pow rd rs1 rs2) s = .next t ∧ Raised s t .divisionByZero))

/-- R142, corner case (ii): 1.0 to any power, negative and fractional ones too, is 1.0. -/
def Obligations.PowersOfOne : Prop :=
  ∀ (s : State) (rd rs1 rs2 : Reg), s.x rs1 = 4096 →
    ∃ t, exec (.pow rd rs1 rs2) s = .next t ∧ Wrote s t rd 4096 .ok

/-- R142, corner case (iii): the powers of 2.0 are exact up to the 50th and saturate from the 51st on,
up to the largest integer exponent. -/
def Obligations.PowersOfTwo : Prop :=
  ∀ (s : State) (rd rs1 rs2 : Reg) (n : Nat), s.x rs1 = 8192 → s.x rs2 = (n : Int) * 4096 →
    (n ≤ 50 → ∃ t, exec (.pow rd rs1 rs2) s = .next t ∧
      Wrote s t rd (BitVec.ofNat 64 (2 ^ (n + 12))) .ok) ∧
    (51 ≤ n → ∃ t, exec (.pow rd rs1 rs2) s = .next t ∧
      Wrote s t rd 0x7FFFFFFFFFFFFFFF#64 .saturated)

/-- R143: above the window, below it, and inside it, where the sum of the series at the reduced
argument is rescaled. `expSum` and `expScale` are the model's transcription of the series and of `k`
(for a configuration outside R216 see log 4). -/
def Obligations.ExponentialResults : Prop :=
  ∀ (s : State) (rd rs1 : Reg), Encoded (.exp rd rs1) 0x21 .DS ∧
    (s64 s.cfg.expInMax < s.x rs1 → ∃ t, exec (.exp rd rs1) s = .next t ∧
      Wrote s t rd 0x7FFFFFFFFFFFFFFF#64 .saturated) ∧
    (s.x rs1 ≤ s64 s.cfg.expInMax → s.x rs1 < s64 s.cfg.expInMin →
      ∃ t, exec (.exp rd rs1) s = .next t ∧ Wrote s t rd 0 .ok) ∧
    (s.x rs1 ≤ s64 s.cfg.expInMax → s64 s.cfg.expInMin ≤ s.x rs1 →
      ∀ sum k, expSum s.cfg (s.x rs1) = sum → expScale s.cfg (s.x rs1) = k →
      (0 ≤ k → sum * 2 ^ k.toNat ≤ kMax → kMin ≤ sum * 2 ^ k.toNat →
        ∃ t, exec (.exp rd rs1) s = .next t ∧ Wrote s t rd (u64 (sum * 2 ^ k.toNat)) .ok) ∧
      (0 ≤ k → kMax < sum * 2 ^ k.toNat →
        ∃ t, exec (.exp rd rs1) s = .next t ∧ Wrote s t rd (u64 kMax) .saturated) ∧
      (0 ≤ k → sum * 2 ^ k.toNat < kMin →
        ∃ t, exec (.exp rd rs1) s = .next t ∧ Wrote s t rd (u64 kMin) .saturated) ∧
      (k < 0 → -64 < k → ∃ t, exec (.exp rd rs1) s = .next t ∧
        Wrote s t rd (u64 (sum / 2 ^ (-k).toNat)) .ok) ∧
      (k ≤ -64 → ∃ t, exec (.exp rd rs1) s = .next t ∧ Wrote s t rd 0 .ok))

/-- R143 for every configuration of R216: the exponential of 0 is 1.0. -/
def Obligations.ExponentialOfZero : Prop :=
  ∀ (s : State) (rd rs1 : Reg), cfgValid s.cfg = true → s.x rs1 = 0 →
    ∃ t, exec (.exp rd rs1) s = .next t ∧ Wrote s t rd 4096 .ok

/-! ### Sine, cosine, arctangent, radians -/

/-- R144, R145, R146: the table entry at the index of the absolute value, negated by `SIN` for a
negative angle (for a configuration outside R216 see log 4). -/
def Obligations.CosineAndSineResults : Prop :=
  ∀ (s : State) (rd rs1 : Reg) (k : Nat),
    k = (s.x rs1).natAbs * 512 / (s64 s.cfg.kTwoPi).toNat % 512 →
    (Encoded (.cos rd rs1) 0x22 .DS ∧ ∃ t, exec (.cos rd rs1) s = .next t ∧
      Wrote s t rd (s.cfg.cosTable.getD k 0) .ok) ∧
    (Encoded (.sin rd rs1) 0x23 .DS ∧ ∃ t, exec (.sin rd rs1) s = .next t ∧
      Wrote s t rd (if s.x rs1 < 0 then -(s.cfg.sinTable.getD k 0) else s.cfg.sinTable.getD k 0) .ok)

/-- R145, R146, corner cases: the cosine is even and the sine is odd, whatever the tables hold. -/
def Obligations.CosineEvenSineOdd : Prop :=
  ∀ (c : Cfg) (a : Int), fxCos c (-a) = fxCos c a ∧ (a ≠ 0 → u64 (fxSin c (-a)) = -(u64 (fxSin c a)))

/-- R147: `TanSearch(r)` is the largest index whose entry is at most `r`, or 0 when there is none. -/
def Obligations.TangentSearchIsTheLargestIndex : Prop :=
  ∀ (c : Cfg) (r : Int), cfgValid c = true →
    tanSearch c r ≤ 511 ∧
    (∀ j, j ≤ 511 → tableRead c.tanTable j ≤ r → j ≤ tanSearch c r) ∧
    ((∃ j, j ≤ 511 ∧ tableRead c.tanTable j ≤ r) → tableRead c.tanTable (tanSearch c r) ≤ r) ∧
    ((∀ j, j ≤ 511 → r < tableRead c.tanTable j) → tanSearch c r = 0)

/-- R147: a binary search finds that index in 9 probes. -/
def Obligations.BinarySearchFindsTheIndex : Prop :=
  ∀ (c : Cfg) (r : Int), cfgValid c = true → tanBinarySearch c r = tanSearch c r

/-- R148, by the signs of the operands (for a configuration outside R216 see log 4). -/
def Obligations.ArctangentResults : Prop :=
  ∀ (s : State) (rd rs1 rs2 : Reg) (y x a : Int), y = s.x rs1 → x = s.x rs2 →
    a = (tanSearch s.cfg ((y.natAbs * 4096 / x.natAbs : Nat) : Int) : Int) * s64 s.cfg.kHalfPi / 512 →
    Encoded (.atan2 rd rs1 rs2) 0x24 .DSS ∧
    (x = 0 → 0 < y → ∃ t, exec (.atan2 rd rs1 rs2) s = .next t ∧
      Wrote s t rd s.cfg.kHalfPi .ok) ∧
    (x = 0 → y < 0 → ∃ t, exec (.atan2 rd rs1 rs2) s = .next t ∧
      Wrote s t rd (s.cfg.kPi + s.cfg.kHalfPi) .ok) ∧
    (x = 0 → y = 0 → ∃ t, exec (.atan2 rd rs1 rs2) s = .next t ∧ Raised s t .precondition) ∧
    (0 < x → 0 ≤ y → ∃ t, exec (.atan2 rd rs1 rs2) s = .next t ∧ Wrote s t rd (u64 a) .ok) ∧
    (x < 0 → 0 ≤ y → ∃ t, exec (.atan2 rd rs1 rs2) s = .next t ∧
      Wrote s t rd (u64 (s64 s.cfg.kPi - a)) .ok) ∧
    (x < 0 → y < 0 → ∃ t, exec (.atan2 rd rs1 rs2) s = .next t ∧
      Wrote s t rd (u64 (s64 s.cfg.kPi + a)) .ok) ∧
    (0 < x → y < 0 → ∃ t, exec (.atan2 rd rs1 rs2) s = .next t ∧
      Wrote s t rd (if a = 0 then 0 else u64 (s64 s.cfg.kTwoPi - a)) .ok)

/-- R148, corner case (i), for every configuration of R216: every result lies in `[0, K_TWO_PI)`. -/
def Obligations.ArctangentStaysInOneTurn : Prop :=
  ∀ (s : State) (rd rs1 rs2 : Reg), cfgValid s.cfg = true → (s.x rs1 ≠ 0 ∨ s.x rs2 ≠ 0) →
    ∃ t v, exec (.atan2 rd rs1 rs2) s = .next t ∧ Wrote s t rd v .ok ∧
      0 ≤ s64 v ∧ s64 v < s64 s.cfg.kTwoPi

/-- R149 for every configuration of R216: the reduced angle times `K_TWO_PI`, shifted down, over 360.0;
nothing wraps, and the result is within one turn. (R149 gives the lower end as open, which the closed
one here covers for every admissible `K_TWO_PI`.) -/
def Obligations.RadiansResultWithinOneTurn : Prop :=
  ∀ (s : State) (rd rs1 : Reg) (v : Int), cfgValid s.cfg = true →
    v = Int.tdiv (Int.tmod (s.x rs1) 1474560 * s64 s.cfg.kTwoPi / 4096 * 4096) 1474560 →
    Encoded (.torad rd rs1) 0x25 .DS ∧ -(s64 s.cfg.kTwoPi) ≤ v ∧ v < s64 s.cfg.kTwoPi ∧
    ∃ t, exec (.torad rd rs1) s = .next t ∧ Wrote s t rd (u64 v) .ok

/-! ### The random generator -/

/-- R171: the seed modulo `2^31 - 1`, and 1 for 0; the generator is seeded. -/
def Obligations.SeedResult : Prop :=
  ∀ (s : State) (rs1 : Reg) (seed : Nat), seed = (s.reg rs1).toNat % 2 ^ 32 →
    Encoded (.seed rs1) 0x30 .S ∧
    ∃ t, exec (.seed rs1) s = .next t ∧
      Ended s t .ok 0 none
        (BitVec.ofNat 32 (if seed % 2147483647 = 0 then 1 else seed % 2147483647))
        (s.gridW, s.gridH) s.wq ∧ t.seeded

/-- R172, R173, R170: the engine word as it is, and its next state, which is also the value. -/
def Obligations.EngineReadAndDrawResults : Prop :=
  ∀ (s : State) (rd : Reg) (v : Nat), v = 48271 * s.rng.toNat % 2147483647 →
    (Encoded (.rngget rd) 0x31 .D ∧
      ∃ t, exec (.rngget rd) s = .next t ∧ Wrote s t rd (BitVec.ofNat 64 s.rng.toNat) .ok) ∧
    Encoded (.randu32 rd) 0x32 .D ∧
    (s.rng ≠ 0 → ∃ t, exec (.randu32 rd) s = .next t ∧
      Drew s t rd (BitVec.ofNat 64 v) (BitVec.ofNat 32 v)) ∧
    (s.rng = 0 → ∃ t, exec (.randu32 rd) s = .next t ∧ Raised s t .precondition)

/-- R171, R172: seeding, at any later time, with an engine word that was read restores it. -/
def Obligations.SavedEngineWordIsRestored : Prop :=
  ∀ (s u : State) (rs1 : Reg), s.seeded → u.reg rs1 = BitVec.ofNat 64 s.rng.toNat →
    ∃ t, exec (.seed rs1) u = .next t ∧ t.rng = s.rng

/-- R176, R177: the two faults, unseeded before `max < min`, and the draw that the sampler gives.
`uniform` is the model's transcription of R174 and R175; its refusal for want of fuel is log 5. -/
def Obligations.UniformDrawResults : Prop :=
  ∀ (s : State) (rd rs1 rs2 : Reg),
    Encoded (.randi32 rd rs1 rs2) 0x33 .DSS ∧ Encoded (.randi64 rd rs1 rs2) 0x34 .DSS ∧
    (s.rng = 0 →
      (∃ t, exec (.randi32 rd rs1 rs2) s = .next t ∧ Raised s t .precondition) ∧
      (∃ t, exec (.randi64 rd rs1 rs2) s = .next t ∧ Raised s t .precondition)) ∧
    (s.rng ≠ 0 → s.xI32 rs2 < s.xI32 rs1 →
      ∃ t, exec (.randi32 rd rs1 rs2) s = .next t ∧ Raised s t .invalidRange) ∧
    (s.rng ≠ 0 → s.x rs2 < s.x rs1 →
      ∃ t, exec (.randi64 rd rs1 rs2) s = .next t ∧ Raised s t .invalidRange) ∧
    (s.rng ≠ 0 → s.xI32 rs1 ≤ s.xI32 rs2 → ∀ v r,
      uniform (s.xI32 rs1) (s.xI32 rs2) 32 s.rng.toNat = some (v, r) →
      ∃ t, exec (.randi32 rd rs1 rs2) s = .next t ∧ Drew s t rd (u64 v) (BitVec.ofNat 32 r)) ∧
    (s.rng ≠ 0 → s.x rs1 ≤ s.x rs2 → ∀ v r,
      uniform (s.x rs1) (s.x rs2) 64 s.rng.toNat = some (v, r) →
      ∃ t, exec (.randi64 rd rs1 rs2) s = .next t ∧ Drew s t rd (u64 v) (BitVec.ofNat 32 r))

/-- R175: a draw lies in its closed range. -/
def Obligations.UniformDrawStaysInRange : Prop :=
  ∀ (s t : State) (rd rs1 rs2 : Reg), s.rng ≠ 0 →
    (s.xI32 rs1 ≤ s.xI32 rs2 → exec (.randi32 rd rs1 rs2) s = .next t →
      s.xI32 rs1 ≤ t.x rd ∧ t.x rd ≤ s.xI32 rs2) ∧
    (s.x rs1 ≤ s.x rs2 → exec (.randi64 rd rs1 rs2) s = .next t →
      s.x rs1 ≤ t.x rd ∧ t.x rd ≤ s.x rs2)

/-- R175, R176, R177: equal bounds give that value and draw nothing. -/
def Obligations.EqualBoundsDrawNothing : Prop :=
  ∀ (s : State) (rd rs1 rs2 : Reg), s.rng ≠ 0 →
    (s.xI32 rs1 = s.xI32 rs2 → ∃ t, exec (.randi32 rd rs1 rs2) s = .next t ∧
      Wrote s t rd (u64 (s.xI32 rs1)) .ok) ∧
    (s.x rs1 = s.x rs2 → ∃ t, exec (.randi64 rd rs1 rs2) s = .next t ∧
      Wrote s t rd (s.reg rs1) .ok)

/-- R265, R174, R175: from every seeded state the draw from every range ends, so that the model's fuel
(log 5) never runs out there, with the value and the engine word that the sampler gives. `uniform` is
the model's transcription of R174 and R175. -/
def Obligations.SeededDrawsComplete : Prop :=
  ∀ (s : State) (rd rs1 rs2 : Reg), s.seeded →
    (s.xI32 rs1 ≤ s.xI32 rs2 →
      ∃ t v r, uniform (s.xI32 rs1) (s.xI32 rs2) 32 s.rng.toNat = some (v, r) ∧
        exec (.randi32 rd rs1 rs2) s = .next t ∧ Drew s t rd (u64 v) (BitVec.ofNat 32 r)) ∧
    (s.x rs1 ≤ s.x rs2 →
      ∃ t v r, uniform (s.x rs1) (s.x rs2) 64 s.rng.toNat = some (v, r) ∧
        exec (.randi64 rd rs1 rs2) s = .next t ∧ Drew s t rd (u64 v) (BitVec.ofNat 32 r))

/-! ### The grid walker -/

/-- R194. -/
def Obligations.SetGridResult : Prop :=
  ∀ (s : State) (rs1 rs2 : Reg), Encoded (.setgrid rs1 rs2) 0x40 .SS ∧
    ∃ t, exec (.setgrid rs1 rs2) s = .next t ∧
      Ended s t .ok 0 none s.rng
        ((s.reg rs1).extractLsb' 0 32, (s.reg rs2).extractLsb' 0 32) s.wq

/-- R195, R196: the walk queued, all of it or the cells inside the bound, and the fault of a coordinate
out of range. -/
def Obligations.WalkResults : Prop :=
  ∀ (s : State) (rs1 rs2 rs3 rs4 : Reg),
    Encoded (.walk rs1 rs2 rs3 rs4) 0x41 .S4 ∧ Encoded (.walkb rs1 rs2 rs3 rs4) 0x42 .S4 ∧
    (coordinatesLegal (s.x rs1) (s.x rs2) (s.x rs3) (s.x rs4) →
      (∃ t, exec (.walk rs1 rs2 rs3 rs4) s = .next t ∧
        Queued s t ((walkCells (s.x rs1) (s.x rs2) (s.x rs3) (s.x rs4)).map cellOf)) ∧
      (∃ t, exec (.walkb rs1 rs2 rs3 rs4) s = .next t ∧
        Queued s t (((walkCells (s.x rs1) (s.x rs2) (s.x rs3) (s.x rs4)).filter fun c =>
          decide (0 ≤ c.1 ∧ c.1 < (s.gridW.toNat : Int) ∧ 0 ≤ c.2 ∧
            c.2 < (s.gridH.toNat : Int))).map cellOf))) ∧
    (¬ coordinatesLegal (s.x rs1) (s.x rs2) (s.x rs3) (s.x rs4) →
      (∃ t, exec (.walk rs1 rs2 rs3 rs4) s = .next t ∧ Raised s t .precondition) ∧
      (∃ t, exec (.walkb rs1 rs2 rs3 rs4) s = .next t ∧ Raised s t .precondition))

/-- R191, R192: a walk goes from the start cell to the end cell, each step changing one coordinate by
one, in `|Δcx| + |Δcy|` steps. -/
def Obligations.WalkIsAFourConnectedPath : Prop :=
  ∀ sx sy ex ey : Int,
    (walkCells sx sy ex ey).head? = some (cellIndex sx, cellIndex sy) ∧
    (walkCells sx sy ex ey).getLast? = some (cellIndex ex, cellIndex ey) ∧
    (walkCells sx sy ex ey).IsChain adjacent ∧
    (walkCells sx sy ex ey).length =
      (cellIndex ex - cellIndex sx).natAbs + (cellIndex ey - cellIndex sy).natAbs + 1

/-- R193: the walk back is the exact reverse. -/
def Obligations.WalkBackIsTheReverse : Prop :=
  ∀ sx sy ex ey : Int, walkCells ex ey sx sy = (walkCells sx sy ex ey).reverse

/-- R199: the generator that neither exchanges nor reverses yields the same sequence, in the general
case of R191. -/
def Obligations.DirectGeneratorAgrees : Prop :=
  ∀ sx sy ex ey : Int, coordinatesLegal sx sy ex ey → cellIndex sx ≠ cellIndex ex →
    cellIndex sy ≠ cellIndex ey → walkDirect sx sy ex ey = walkCells sx sy ex ey

/-- R190, R191, R29: every cell of a walk between legal coordinates is a pair of signed 32-bit
integers. -/
def Obligations.WalkCellsFitTheQueue : Prop :=
  ∀ sx sy ex ey : Int, coordinatesLegal sx sy ex ey →
    ∀ c ∈ walkCells sx sy ex ey, -2 ^ 31 ≤ c.1 ∧ c.1 < 2 ^ 31 ∧ -2 ^ 31 ≤ c.2 ∧ c.2 < 2 ^ 31

/-- R197: the first cell of `WQ`, packed, or `WalkEnd`. -/
def Obligations.NextCellResults : Prop :=
  ∀ (s : State) (rd : Reg), Encoded (.wnext rd) 0x43 .D ∧
    (∀ c rest, s.wq = c :: rest → ∃ t, exec (.wnext rd) s = .next t ∧
      Ended s t .ok (c.cy ++ c.cx) (some (rd, c.cy ++ c.cx)) s.rng (s.gridW, s.gridH) rest) ∧
    (s.wq = [] → ∃ t, exec (.wnext rd) s = .next t ∧
      Ended s t .walkEnd 0 none s.rng (s.gridW, s.gridH) [])

/-! ### The system command -/

/-- R210: `FSR` zero-extended, bits 0 and 7 always 0; reading does not clear it. -/
def Obligations.StatusRegisterReadResult : Prop :=
  ∀ (s : State) (rd : Reg), Encoded (.rdfsr rd) 0x50 .D ∧
    ∃ t, exec (.rdfsr rd) s = .next t ∧
      Wrote s t rd (BitVec.ofNat 64 (s.fsr.toNat / 2 % 64 * 2)) .ok
end

