-- ==== Sys2Proof/Laws/Bytes.lean ====
section
/-! SUPPORT. The transport bytes of `20_memory.md` R53 and the fields of a response. -/

namespace Sys2Proof.Machine

@[simp] theorem littleEndian_length (n v : Nat) : (littleEndian n v).length = n := by
  induction n generalizing v with
  | zero => rfl
  | succ n ih => simp [littleEndian, ih]

/-- R53: byte `k` carries bits `8k+7 : 8k`. -/
theorem littleEndian_getElem? {n k : Nat} (v : Nat) (h : k < n) :
    (littleEndian n v)[k]? = some (BitVec.ofNat 8 (v / 2 ^ (8 * k))) := by
  induction n generalizing k v with
  | zero => omega
  | succ n ih =>
    cases k with
    | zero => simp [littleEndian]
    | succ k =>
      rw [littleEndian, List.getElem?_cons_succ, ih _ (by omega), Nat.div_div_eq_div_mul]
      congr 3
      rw [Nat.mul_succ, Nat.pow_add, Nat.mul_comm]

/-- Bytes carry the number they were made from, as far as they reach. -/
theorem ofLittleEndian_littleEndian (n v : Nat) :
    ofLittleEndian (littleEndian n v) = v % 2 ^ (8 * n) := by
  induction n generalizing v with
  | zero => simp [littleEndian, ofLittleEndian, Nat.mod_one]
  | succ n ih =>
    rw [littleEndian, ofLittleEndian, ih, BitVec.toNat_ofNat, Nat.mul_succ, Nat.pow_add,
      Nat.mul_comm (2 ^ (8 * n)), Nat.mod_mul]

/-- R230: a status is read back from its code. -/
@[simp] theorem statusOfCode_statusCode (st : Status) : statusOfCode (statusCode st) = some st := by
  cases st <;> rfl

/-- R80: a response is read back from its 68 bits. -/
@[simp] theorem responseOfBits_responseBits (r : Response) :
    responseOfBits (responseBits r) = some r := by
  have code : (responseBits r).extractLsb' 64 4 = statusCode r.status :=
    BitVec.extractLsb'_append_eq_left
  have data : (responseBits r).extractLsb' 0 64 = r.data :=
    BitVec.extractLsb'_append_eq_right
  simp [responseOfBits, code, data]

end Sys2Proof.Machine
end

