-- ==== Sys2Proof/Laws/Numeric.lean ====
section
/-! SUPPORT. What the numeric helpers compute: the defining properties of `00_scope.md` R10, and that
the bounds on the loops of `POW` and of the sampler's widths never cut one short. -/

namespace Sys2Proof.Machine

/-- R10: a wrapped integer is the signed reading of its pattern. -/
theorem wrap64_eq_bmod (v : Int) : wrap64 v = Int.bmod v (2 ^ 64) := by
  simp only [wrap64, s64, u64, BitVec.toInt_ofInt]

/-- A wrap does not change the pattern. -/
@[simp] theorem u64_wrap64 (v : Int) : u64 (wrap64 v) = u64 v := by
  simp only [wrap64, s64, u64, BitVec.ofInt_toInt]

/-- Reading a pattern and storing it again. -/
@[simp] theorem u64_s64 (w : Word) : u64 (s64 w) = w := by
  simp only [s64, u64, BitVec.ofInt_toInt]

/-- R11: a value that fits is read back as itself. -/
theorem s64_u64 {v : Int} (h : -2 ^ 63 ≤ v) (h' : v < 2 ^ 63) : s64 (u64 v) = v := by
  simp only [s64, u64, BitVec.toInt_ofInt]
  exact Int.bmod_eq_of_le (by omega) (by omega)

/-- The rounds of `isqrtBits` keep the root found so far below the root, and end within one of it. -/
theorem isqrtBits_spec (n k r : Nat) (lo : r * r ≤ n) (hi : n < (r + 2 ^ k) * (r + 2 ^ k)) :
    isqrtBits n k r * isqrtBits n k r ≤ n ∧
      n < (isqrtBits n k r + 1) * (isqrtBits n k r + 1) := by
  induction k generalizing r with
  | zero => exact ⟨lo, by simpa [isqrtBits] using hi⟩
  | succ k ih =>
    have two : 2 ^ (k + 1) = 2 ^ k + 2 ^ k := by omega
    simp only [isqrtBits]
    split
    · exact ih _ (by assumption) (by rw [Nat.add_assoc, ← two]; exact hi)
    · exact ih _ lo (by omega)

/-- R10 `isqrt`: the largest `r` with `r * r ≤ n`. -/
theorem isqrt_spec (n : Nat) : isqrt n * isqrt n ≤ n ∧ n < (isqrt n + 1) * (isqrt n + 1) := by
  refine isqrtBits_spec n _ 0 (by omega) ?_
  have := Nat.lt_log2_self (n := n)
  calc n < 2 ^ (n.log2 + 1) := this
    _ ≤ 2 ^ ((n.log2 / 2 + 1) + (n.log2 / 2 + 1)) := Nat.pow_le_pow_right (by omega) (by omega)
    _ = (0 + 2 ^ (n.log2 / 2 + 1)) * (0 + 2 ^ (n.log2 / 2 + 1)) := by rw [Nat.zero_add, Nat.pow_add]

/-- R142: once the bound on the rounds covers `n`, more rounds change nothing, so the 52 rounds of
`POW` (for `n ≤ 2^51`) are the whole loop. -/
theorem powInteger_rounds (a b n : Nat) (res base : Int) (sat : Bool) (ha : n < 2 ^ a)
    (hb : n < 2 ^ b) : powInteger a n res base sat = powInteger b n res base sat := by
  induction a generalizing b n res base sat with
  | zero =>
    obtain rfl : n = 0 := by omega
    cases b <;> simp [powInteger]
  | succ a ih =>
    cases b with
    | zero => obtain rfl : n = 0 := by omega
              simp [powInteger]
    | succ b =>
      simp only [powInteger]
      split
      · rfl
      · exact ih _ _ _ _ _ (by omega) (by omega)

/-- R175: `bitsToCover n` is the least width that covers a range of `n ≥ 2` values. -/
theorem bitsToCover_spec {n : Nat} (h : 2 ≤ n) :
    n ≤ 2 ^ bitsToCover n ∧ 2 ^ (bitsToCover n - 1) < n := by
  have lo := Nat.log2_self_le (n := n - 1) (by omega)
  have hi := Nat.lt_log2_self (n := n - 1)
  simp only [bitsToCover, Nat.add_sub_cancel]
  omega

end Sys2Proof.Machine
end

