-- ==== Sys2Proof/Laws/State.lean ====
section
/-! SUPPORT. What each field is after each update of the state: one lemma per field per update, true by
`rfl`, so that no later proof unfolds a record update. -/

namespace Sys2Proof.Machine

section setRegFields
variable (s : State) (r : Reg) (v : Word)

@[simp] theorem State.setReg_regs : (s.setReg r v).regs = s.regs.set r v := rfl
@[simp] theorem State.setReg_rng : (s.setReg r v).rng = s.rng := rfl
@[simp] theorem State.setReg_gridW : (s.setReg r v).gridW = s.gridW := rfl
@[simp] theorem State.setReg_gridH : (s.setReg r v).gridH = s.gridH := rfl
@[simp] theorem State.setReg_wq : (s.setReg r v).wq = s.wq := rfl
@[simp] theorem State.setReg_fsr : (s.setReg r v).fsr = s.fsr := rfl
@[simp] theorem State.setReg_cfg : (s.setReg r v).cfg = s.cfg := rfl
@[simp] theorem State.setReg_host : (s.setReg r v).host = s.host := rfl
@[simp] theorem State.setReg_responses : (s.setReg r v).responses = s.responses := rfl

end setRegFields

section setRngFields
variable (s : State) (w : Word32)

@[simp] theorem State.setRng_regs : (s.setRng w).regs = s.regs := rfl
@[simp] theorem State.setRng_rng : (s.setRng w).rng = w := rfl
@[simp] theorem State.setRng_gridW : (s.setRng w).gridW = s.gridW := rfl
@[simp] theorem State.setRng_gridH : (s.setRng w).gridH = s.gridH := rfl
@[simp] theorem State.setRng_wq : (s.setRng w).wq = s.wq := rfl
@[simp] theorem State.setRng_fsr : (s.setRng w).fsr = s.fsr := rfl
@[simp] theorem State.setRng_cfg : (s.setRng w).cfg = s.cfg := rfl
@[simp] theorem State.setRng_host : (s.setRng w).host = s.host := rfl
@[simp] theorem State.setRng_responses : (s.setRng w).responses = s.responses := rfl

end setRngFields

section setGridFields
variable (s : State) (w h : Word32)

@[simp] theorem State.setGrid_regs : (s.setGrid w h).regs = s.regs := rfl
@[simp] theorem State.setGrid_rng : (s.setGrid w h).rng = s.rng := rfl
@[simp] theorem State.setGrid_gridW : (s.setGrid w h).gridW = w := rfl
@[simp] theorem State.setGrid_gridH : (s.setGrid w h).gridH = h := rfl
@[simp] theorem State.setGrid_wq : (s.setGrid w h).wq = s.wq := rfl
@[simp] theorem State.setGrid_fsr : (s.setGrid w h).fsr = s.fsr := rfl
@[simp] theorem State.setGrid_cfg : (s.setGrid w h).cfg = s.cfg := rfl
@[simp] theorem State.setGrid_host : (s.setGrid w h).host = s.host := rfl
@[simp] theorem State.setGrid_responses : (s.setGrid w h).responses = s.responses := rfl

end setGridFields

section setWqFields
variable (s : State) (q : List Cell)

@[simp] theorem State.setWq_regs : (s.setWq q).regs = s.regs := rfl
@[simp] theorem State.setWq_rng : (s.setWq q).rng = s.rng := rfl
@[simp] theorem State.setWq_gridW : (s.setWq q).gridW = s.gridW := rfl
@[simp] theorem State.setWq_gridH : (s.setWq q).gridH = s.gridH := rfl
@[simp] theorem State.setWq_wq : (s.setWq q).wq = q := rfl
@[simp] theorem State.setWq_fsr : (s.setWq q).fsr = s.fsr := rfl
@[simp] theorem State.setWq_cfg : (s.setWq q).cfg = s.cfg := rfl
@[simp] theorem State.setWq_host : (s.setWq q).host = s.host := rfl
@[simp] theorem State.setWq_responses : (s.setWq q).responses = s.responses := rfl

end setWqFields

section answerFields
variable (s : State) (st : Status) (d : Word)

@[simp] theorem State.answer_regs : (s.answer st d).regs = s.regs := rfl
@[simp] theorem State.answer_rng : (s.answer st d).rng = s.rng := rfl
@[simp] theorem State.answer_gridW : (s.answer st d).gridW = s.gridW := rfl
@[simp] theorem State.answer_gridH : (s.answer st d).gridH = s.gridH := rfl
@[simp] theorem State.answer_wq : (s.answer st d).wq = s.wq := rfl
@[simp] theorem State.answer_fsr : (s.answer st d).fsr = s.fsr ||| fsrBit st := rfl
@[simp] theorem State.answer_cfg : (s.answer st d).cfg = s.cfg := rfl
@[simp] theorem State.answer_host : (s.answer st d).host = s.host := rfl
@[simp] theorem State.answer_responses : (s.answer st d).responses = s.responses ++ [{ status := st, data := d }] := rfl

end answerFields

section assertResetFields
variable (s : State)

@[simp] theorem State.assertReset_regs : s.assertReset.regs = Vector.replicate 16 0 := rfl
@[simp] theorem State.assertReset_rng : s.assertReset.rng = 0 := rfl
@[simp] theorem State.assertReset_gridW : s.assertReset.gridW = 0 := rfl
@[simp] theorem State.assertReset_gridH : s.assertReset.gridH = 0 := rfl
@[simp] theorem State.assertReset_wq : s.assertReset.wq = [] := rfl
@[simp] theorem State.assertReset_fsr : s.assertReset.fsr = 0 := rfl
@[simp] theorem State.assertReset_cfg : s.assertReset.cfg = s.cfg := rfl
@[simp] theorem State.assertReset_host : s.assertReset.host = s.host := rfl
@[simp] theorem State.assertReset_responses : s.assertReset.responses = s.responses := rfl

end assertResetFields

section presentFields
variable (s : State) (p : Packet)

@[simp] theorem State.present_regs : (s.present p).regs = s.regs := rfl
@[simp] theorem State.present_rng : (s.present p).rng = s.rng := rfl
@[simp] theorem State.present_gridW : (s.present p).gridW = s.gridW := rfl
@[simp] theorem State.present_gridH : (s.present p).gridH = s.gridH := rfl
@[simp] theorem State.present_wq : (s.present p).wq = s.wq := rfl
@[simp] theorem State.present_fsr : (s.present p).fsr = s.fsr := rfl
@[simp] theorem State.present_cfg : (s.present p).cfg = s.cfg := rfl
@[simp] theorem State.present_host : (s.present p).host = .command p :: s.host := rfl
@[simp] theorem State.present_responses : (s.present p).responses = s.responses := rfl

end presentFields

/-- Reading a register after a register write: the value where it was written, and as before
elsewhere. -/
@[simp] theorem State.setReg_reg (s : State) (r : Reg) (v : Word) (r' : Reg) :
    (s.setReg r v).reg r' = if r' = r then v else s.reg r' := by
  simp only [State.reg, State.setReg, Fin.getElem_fin, Vector.getElem_set, Fin.ext_iff, eq_comm]

@[simp] theorem State.setRng_reg (s : State) (w : Word32) (r : Reg) : (s.setRng w).reg r = s.reg r := rfl
@[simp] theorem State.setGrid_reg (s : State) (w h : Word32) (r : Reg) :
    (s.setGrid w h).reg r = s.reg r := rfl
@[simp] theorem State.setWq_reg (s : State) (q : List Cell) (r : Reg) : (s.setWq q).reg r = s.reg r := rfl
@[simp] theorem State.answer_reg (s : State) (st : Status) (d : Word) (r : Reg) :
    (s.answer st d).reg r = s.reg r := rfl
@[simp] theorem State.present_reg (s : State) (p : Packet) (r : Reg) : (s.present p).reg r = s.reg r := rfl

/-- R24, R33: every register reads 0 after reset. -/
@[simp] theorem State.assertReset_reg (s : State) (r : Reg) : s.assertReset.reg r = 0 := by
  simp only [State.reg, State.assertReset_regs, Fin.getElem_fin, Vector.getElem_replicate]

/-- The next event of a state whose host has one. -/
@[simp] theorem State.takeEvent_cons (s : State) (e : HostEvent) (rest : List HostEvent) :
    ({ s with host := e :: rest } : State).takeEvent = some (e, { s with host := rest }) := rfl

/-- A packet that was just presented is the next event, and meeting it leaves the state as it was. -/
@[simp] theorem State.takeEvent_present (s : State) (p : Packet) :
    (s.present p).takeEvent = some (.command p, s) := rfl

/-- The event that a state with a non-empty list meets. -/
theorem State.takeEvent_of_host {s : State} {e : HostEvent} {rest : List HostEvent}
    (h : s.host = e :: rest) : s.takeEvent = some (e, { s with host := rest }) := by
  simp only [State.takeEvent, h]

end Sys2Proof.Machine
end

