-- ==== Sys2Proof/Laws/Ops.lean ====
section
/-! SUPPORT. What each shared operation does, said once: how `answer` and the ways a command can end
show in the state, in the terms of `Ended`. -/

namespace Sys2Proof.Machine

/-- R232 bit by bit. -/
theorem fsrBit_getLsbD (st : Status) (n : Nat) (hn : n < 8) :
    (fsrBit st).getLsbD n =
      (decide (1 ≤ n) && decide (n ≤ 6) && decide ((statusCode st).toNat = n)) := by
  cases st <;> interval_cases n <;> decide

/-- The response and the sticky bit of any command, over any state it had reached. -/
theorem answer_ended {s u : State} (st : Status) (d : Word) {write : Option (Reg × Word)}
    (written : ∀ r v, write = some (r, v) → u.reg r = v)
    (kept : ∀ r, (∀ v, write ≠ some (r, v)) → u.reg r = s.reg r)
    (fsr : u.fsr = s.fsr) (responses : u.responses = s.responses) (cfg : u.cfg = s.cfg)
    (host : u.host = s.host) :
    Ended s (u.answer st d) st d write u.rng (u.gridW, u.gridH) u.wq where
  written := written
  kept := kept
  rng := rfl
  grid := rfl
  wq := rfl
  fsr n hn := by simp only [State.answer_fsr, BitVec.getLsbD_or, fsr, fsrBit_getLsbD st n hn]
  responses := by simp only [State.answer_responses, responses]
  cfg := cfg
  host := host

/-- R231: what `raise` does. -/
theorem raise_raised (s : State) (st : Status) : Raised s (s.raise st) st :=
  answer_ended st 0 (fun _ _ h => nomatch h) (fun _ _ => rfl) rfl rfl rfl rfl

/-- A write of `rd` over a state in which only the system state may differ. -/
theorem deliver_ended {s u : State} (rd : Reg) (v : Word) (st : Status)
    (regs : ∀ r, u.reg r = s.reg r) (fsr : u.fsr = s.fsr) (responses : u.responses = s.responses)
    (cfg : u.cfg = s.cfg) (host : u.host = s.host) :
    Ended s (u.deliver rd v st) st v (some (rd, v)) u.rng (u.gridW, u.gridH) u.wq :=
  answer_ended (u := u.setReg rd v) st v
    (by rintro r w ⟨⟩; simp)
    (fun r h => by
      have : r ≠ rd := fun e => h v (by rw [e])
      simp [this, regs])
    fsr responses cfg host

/-- What `deliver` does. -/
theorem deliver_wrote (s : State) (rd : Reg) (v : Word) (st : Status) :
    Wrote s (s.deliver rd v st) rd v st :=
  deliver_ended rd v st (fun _ => rfl) rfl rfl rfl rfl

/-- What a draw does. -/
theorem setRng_deliver_drew (s : State) (rd : Reg) (v : Word) (w : Word32) :
    Drew s ((s.setRng w).deliver rd v .ok) rd v w :=
  deliver_ended rd v .ok (fun _ => rfl) rfl rfl rfl rfl

/-- What a command without `rd` does, over a state in which only the system state may differ. -/
theorem complete_ended {s u : State} (regs : ∀ r, u.reg r = s.reg r) (fsr : u.fsr = s.fsr)
    (responses : u.responses = s.responses) (cfg : u.cfg = s.cfg) (host : u.host = s.host) :
    Ended s u.complete .ok 0 none u.rng (u.gridW, u.gridH) u.wq :=
  answer_ended .ok 0 (fun _ _ h => nomatch h) (fun r _ => regs r) fsr responses cfg host

/-- What a walk's queueing does. -/
theorem setWq_complete_queued (s : State) (q : List Cell) : Queued s (s.setWq q).complete q :=
  complete_ended (fun _ => rfl) rfl rfl rfl rfl

/-- The two ways a computation that may raise can end. -/
theorem deliverOrRaise_cases (s : State) (rd : Reg) (r : Except Status Int) :
    (∃ v, r = .ok v ∧ Wrote s (s.deliverOrRaise rd r) rd (u64 v) .ok) ∨
    (∃ st, r = .error st ∧ Raised s (s.deliverOrRaise rd r) st) := by
  cases r with
  | ok v => exact .inl ⟨v, rfl, deliver_wrote s rd (u64 v) .ok⟩
  | error st => exact .inr ⟨st, rfl, raise_raised s st⟩

/-- The ways `POW` can end. -/
theorem deliverPower_cases (s : State) (rd : Reg) (r : Except Status (Int × Bool)) :
    (∃ p, r = .ok p ∧ Wrote s (s.deliverPower rd r) rd (u64 p.1) (saturationStatus p.2)) ∨
    (∃ st, r = .error st ∧ Raised s (s.deliverPower rd r) st) := by
  cases r with
  | ok p => exact .inl ⟨p, rfl, deliver_wrote s rd (u64 p.1) _⟩
  | error st => exact .inr ⟨st, rfl, raise_raised s st⟩

/-- The two ways a walk can end. -/
theorem queueOrRaise_cases (s : State) (r : Except Status (List Cell)) :
    (∃ q, r = .ok q ∧ Queued s (s.queueOrRaise r) q) ∨
    (∃ st, r = .error st ∧ Raised s (s.queueOrRaise r) st) := by
  cases r with
  | ok q => exact .inl ⟨q, rfl, setWq_complete_queued s q⟩
  | error st => exact .inr ⟨st, rfl, raise_raised s st⟩

/-- Everything the sampling commands can do: two faults, a draw, or the refusal. -/
theorem sampleOrRaise_cases (s : State) (rd : Reg) (lo hi : Int) (D : Nat) :
    (s.rng = 0 ∧ s.sampleOrRaise rd lo hi D = .next (s.raise .precondition)) ∨
    (s.rng ≠ 0 ∧ hi < lo ∧ s.sampleOrRaise rd lo hi D = .next (s.raise .invalidRange)) ∨
    (s.rng ≠ 0 ∧ lo ≤ hi ∧ ∃ v r, uniform lo hi D s.rng.toNat = some (v, r) ∧
      s.sampleOrRaise rd lo hi D = .next ((s.setRng (BitVec.ofNat 32 r)).deliver rd (u64 v) .ok)) ∨
    (s.rng ≠ 0 ∧ lo ≤ hi ∧ uniform lo hi D s.rng.toNat = none ∧
      s.sampleOrRaise rd lo hi D = .refused .samplerFuelExhausted) := by
  unfold State.sampleOrRaise
  by_cases h0 : s.rng = 0
  · exact .inl ⟨h0, by rw [if_pos h0]⟩
  · rw [if_neg h0]
    by_cases h1 : hi < lo
    · exact .inr (.inl ⟨h0, h1, by rw [if_pos h1]⟩)
    · rw [if_neg h1]
      cases h2 : uniform lo hi D s.rng.toNat with
      | none => exact .inr (.inr (.inr ⟨h0, by omega, rfl, rfl⟩))
      | some p => exact .inr (.inr (.inl ⟨h0, by omega, p.1, p.2, rfl, rfl⟩))

end Sys2Proof.Machine
end

