-- ==== Sys2Proof/Laws/PerInstr.lean ====
section
/-! SUPPORT. The per-instruction family `FixedBits` (`30_encoding.md` R72): the bits of a command word
that a decoder compares are the opcode and zeros, for every instruction and every operand. -/

namespace Sys2Proof.Laws

/-- What a mask leaves of a command word with five register fields. -/
theorem commandWord_and (op mo : BitVec 8) (rd rs1 rs2 rs3 rs4 : Reg) (m1 m2 m3 m4 m5 m6 : BitVec 4) :
    commandWord op rd rs1 rs2 rs3 rs4 &&& (mo ++ m1 ++ m2 ++ m3 ++ m4 ++ m5 ++ m6 : Word32) =
      ((op &&& mo) ++ (regBits rd &&& m1) ++ (regBits rs1 &&& m2) ++ (regBits rs2 &&& m3) ++
        (regBits rs3 &&& m4) ++ (regBits rs4 &&& m5) ++ (0#4 &&& m6) : Word32) := by
  simp only [commandWord]
  repeat rw [← BitVec.and_append]

/-- What a mask leaves of a command word with a shift count. -/
theorem shiftWord_and (op mo : BitVec 8) (rd rs1 : Reg) (sh : Nat) (m1 m2 : BitVec 4) (m3 : BitVec 6)
    (m4 : BitVec 10) :
    shiftWord op rd rs1 sh &&& (mo ++ m1 ++ m2 ++ m3 ++ m4 : Word32) =
      ((op &&& mo) ++ (regBits rd &&& m1) ++ (regBits rs1 &&& m2) ++ (BitVec.ofNat 6 sh &&& m3) ++
        (0#10 &&& m4) : Word32) := by
  simp only [shiftWord]
  repeat rw [← BitVec.and_append]

/-- R72: the masked command word is the opcode and 24 zeros. -/
def FixedBits.Statement (i : Instr) : Prop :=
  encodeWord i &&& formatMask (formatOf i) = opcodeOf i ++ 0#24

/-- An opcode over six zero fields. -/
theorem opcode_over_fields (op : BitVec 8) :
    (op ++ 0#4 ++ 0#4 ++ 0#4 ++ 0#4 ++ 0#4 ++ 0#4 : Word32) = op ++ 0#24 := by
  revert op; decide +kernel

/-- An opcode over the four zero fields of format `DSI`. -/
theorem opcode_over_shift_fields (op : BitVec 8) :
    (op ++ 0#4 ++ 0#4 ++ 0#6 ++ 0#10 : Word32) = op ++ 0#24 := by
  revert op; decide +kernel

/-- Format `D`. -/
theorem maskedD (op : BitVec 8) (rd : Reg) :
    commandWord op rd 0 0 0 0 &&& formatMask .D = op ++ 0#24 := by
  have h := commandWord_and op 0xFF#8 rd 0 0 0 0 0#4 0xF#4 0xF#4 0xF#4 0xF#4 0xF#4
  simp only [BitVec.and_zero] at h
  refine Eq.trans h ?_
  have ho : op &&& 0xFF#8 = op := BitVec.and_allOnes
  rw [ho]
  exact opcode_over_fields op

/-- Format `DS`. -/
theorem maskedDS (op : BitVec 8) (rd rs1 : Reg) :
    commandWord op rd rs1 0 0 0 &&& formatMask .DS = op ++ 0#24 := by
  have h := commandWord_and op 0xFF#8 rd rs1 0 0 0 0#4 0#4 0xF#4 0xF#4 0xF#4 0xF#4
  simp only [BitVec.and_zero] at h
  refine Eq.trans h ?_
  have ho : op &&& 0xFF#8 = op := BitVec.and_allOnes
  rw [ho]
  exact opcode_over_fields op

/-- Format `DSS`. -/
theorem maskedDSS (op : BitVec 8) (rd rs1 rs2 : Reg) :
    commandWord op rd rs1 rs2 0 0 &&& formatMask .DSS = op ++ 0#24 := by
  have h := commandWord_and op 0xFF#8 rd rs1 rs2 0 0 0#4 0#4 0#4 0xF#4 0xF#4 0xF#4
  simp only [BitVec.and_zero] at h
  refine Eq.trans h ?_
  have ho : op &&& 0xFF#8 = op := BitVec.and_allOnes
  rw [ho]
  exact opcode_over_fields op

/-- Format `S`. -/
theorem maskedS (op : BitVec 8) (rs1 : Reg) :
    commandWord op 0 rs1 0 0 0 &&& formatMask .S = op ++ 0#24 := by
  have h := commandWord_and op 0xFF#8 0 rs1 0 0 0 0xF#4 0#4 0xF#4 0xF#4 0xF#4 0xF#4
  simp only [BitVec.and_zero] at h
  refine Eq.trans h ?_
  have ho : op &&& 0xFF#8 = op := BitVec.and_allOnes
  rw [ho]
  exact opcode_over_fields op

/-- Format `SS`. -/
theorem maskedSS (op : BitVec 8) (rs1 rs2 : Reg) :
    commandWord op 0 rs1 rs2 0 0 &&& formatMask .SS = op ++ 0#24 := by
  have h := commandWord_and op 0xFF#8 0 rs1 rs2 0 0 0xF#4 0#4 0#4 0xF#4 0xF#4 0xF#4
  simp only [BitVec.and_zero] at h
  refine Eq.trans h ?_
  have ho : op &&& 0xFF#8 = op := BitVec.and_allOnes
  rw [ho]
  exact opcode_over_fields op

/-- Format `S4`. -/
theorem maskedS4 (op : BitVec 8) (rs1 rs2 rs3 rs4 : Reg) :
    commandWord op 0 rs1 rs2 rs3 rs4 &&& formatMask .S4 = op ++ 0#24 := by
  have h := commandWord_and op 0xFF#8 0 rs1 rs2 rs3 rs4 0xF#4 0#4 0#4 0#4 0#4 0xF#4
  simp only [BitVec.and_zero] at h
  refine Eq.trans h ?_
  have ho : op &&& 0xFF#8 = op := BitVec.and_allOnes
  rw [ho]
  exact opcode_over_fields op

/-- Format `DSI`. -/
theorem maskedDSI (op : BitVec 8) (rd rs1 : Reg) (sh : Nat) :
    shiftWord op rd rs1 sh &&& formatMask .DSI = op ++ 0#24 := by
  have h := shiftWord_and op 0xFF#8 rd rs1 sh 0#4 0#4 0#6 0x3FF#10
  simp only [BitVec.and_zero] at h
  refine Eq.trans h ?_
  have ho : op &&& 0xFF#8 = op := BitVec.and_allOnes
  rw [ho]
  exact opcode_over_shift_fields op

/-- `LDI` (R100). -/
theorem FixedBits.ldi (rd : Reg) (imm : Word) : FixedBits.Statement (.ldi rd imm) := maskedD _ rd

/-- `MOV` (R101). -/
theorem FixedBits.mov (rd rs1 : Reg) : FixedBits.Statement (.mov rd rs1) := maskedDS _ rd rs1

/-- `FROMINT` (R102). -/
theorem FixedBits.fromint (rd rs1 : Reg) : FixedBits.Statement (.fromint rd rs1) := maskedDS _ rd rs1

/-- `TOINT` (R103). -/
theorem FixedBits.toint (rd rs1 : Reg) : FixedBits.Statement (.toint rd rs1) := maskedDS _ rd rs1

/-- `FROMFRAC` (R104). -/
theorem FixedBits.fromfrac (rd rs1 rs2 : Reg) : FixedBits.Statement (.fromfrac rd rs1 rs2) := maskedDSS _ rd rs1 rs2

/-- `ADD` (R111). -/
theorem FixedBits.add (rd rs1 rs2 : Reg) : FixedBits.Statement (.add rd rs1 rs2) := maskedDSS _ rd rs1 rs2

/-- `SUB` (R112). -/
theorem FixedBits.sub (rd rs1 rs2 : Reg) : FixedBits.Statement (.sub rd rs1 rs2) := maskedDSS _ rd rs1 rs2

/-- `MUL` (R113). -/
theorem FixedBits.mul (rd rs1 rs2 : Reg) : FixedBits.Statement (.mul rd rs1 rs2) := maskedDSS _ rd rs1 rs2

/-- `DIV` (R114). -/
theorem FixedBits.div (rd rs1 rs2 : Reg) : FixedBits.Statement (.div rd rs1 rs2) := maskedDSS _ rd rs1 rs2

/-- `MOD` (R115). -/
theorem FixedBits.mod (rd rs1 rs2 : Reg) : FixedBits.Statement (.mod rd rs1 rs2) := maskedDSS _ rd rs1 rs2

/-- `EREM` (R116). -/
theorem FixedBits.erem (rd rs1 rs2 : Reg) : FixedBits.Statement (.erem rd rs1 rs2) := maskedDSS _ rd rs1 rs2

/-- `FLOOR` (R117). -/
theorem FixedBits.floor (rd rs1 : Reg) : FixedBits.Statement (.floor rd rs1) := maskedDS _ rd rs1

/-- `CEIL` (R118). -/
theorem FixedBits.ceil (rd rs1 : Reg) : FixedBits.Statement (.ceil rd rs1) := maskedDS _ rd rs1

/-- `ROUND` (R119). -/
theorem FixedBits.round (rd rs1 : Reg) : FixedBits.Statement (.round rd rs1) := maskedDS _ rd rs1

/-- `ABS` (R120). -/
theorem FixedBits.abs (rd rs1 : Reg) : FixedBits.Statement (.abs rd rs1) := maskedDS _ rd rs1

/-- `SQRT` (R121). -/
theorem FixedBits.sqrt (rd rs1 : Reg) : FixedBits.Statement (.sqrt rd rs1) := maskedDS _ rd rs1

/-- `SHLI` (R122). -/
theorem FixedBits.shli (rd rs1 : Reg) (sh : Nat) : FixedBits.Statement (.shli rd rs1 sh) := maskedDSI _ rd rs1 sh

/-- `SHRI` (R123). -/
theorem FixedBits.shri (rd rs1 : Reg) (sh : Nat) : FixedBits.Statement (.shri rd rs1 sh) := maskedDSI _ rd rs1 sh

/-- `SAMESIGN` (R124). -/
theorem FixedBits.samesign (rd rs1 rs2 : Reg) : FixedBits.Statement (.samesign rd rs1 rs2) := maskedDSS _ rd rs1 rs2

/-- `CMP` (R125). -/
theorem FixedBits.cmp (rd rs1 rs2 : Reg) : FixedBits.Statement (.cmp rd rs1 rs2) := maskedDSS _ rd rs1 rs2

/-- `POW` (R142). -/
theorem FixedBits.pow (rd rs1 rs2 : Reg) : FixedBits.Statement (.pow rd rs1 rs2) := maskedDSS _ rd rs1 rs2

/-- `EXP` (R143). -/
theorem FixedBits.exp (rd rs1 : Reg) : FixedBits.Statement (.exp rd rs1) := maskedDS _ rd rs1

/-- `COS` (R145). -/
theorem FixedBits.cos (rd rs1 : Reg) : FixedBits.Statement (.cos rd rs1) := maskedDS _ rd rs1

/-- `SIN` (R146). -/
theorem FixedBits.sin (rd rs1 : Reg) : FixedBits.Statement (.sin rd rs1) := maskedDS _ rd rs1

/-- `ATAN2` (R148). -/
theorem FixedBits.atan2 (rd rs1 rs2 : Reg) : FixedBits.Statement (.atan2 rd rs1 rs2) := maskedDSS _ rd rs1 rs2

/-- `TORAD` (R149). -/
theorem FixedBits.torad (rd rs1 : Reg) : FixedBits.Statement (.torad rd rs1) := maskedDS _ rd rs1

/-- `SEED` (R171). -/
theorem FixedBits.seed (rs1 : Reg) : FixedBits.Statement (.seed rs1) := maskedS _ rs1

/-- `RNGGET` (R172). -/
theorem FixedBits.rngget (rd : Reg) : FixedBits.Statement (.rngget rd) := maskedD _ rd

/-- `RANDU32` (R173). -/
theorem FixedBits.randu32 (rd : Reg) : FixedBits.Statement (.randu32 rd) := maskedD _ rd

/-- `RANDI32` (R176). -/
theorem FixedBits.randi32 (rd rs1 rs2 : Reg) : FixedBits.Statement (.randi32 rd rs1 rs2) := maskedDSS _ rd rs1 rs2

/-- `RANDI64` (R177). -/
theorem FixedBits.randi64 (rd rs1 rs2 : Reg) : FixedBits.Statement (.randi64 rd rs1 rs2) := maskedDSS _ rd rs1 rs2

/-- `SETGRID` (R194). -/
theorem FixedBits.setgrid (rs1 rs2 : Reg) : FixedBits.Statement (.setgrid rs1 rs2) := maskedSS _ rs1 rs2

/-- `WALK` (R195). -/
theorem FixedBits.walk (rs1 rs2 rs3 rs4 : Reg) : FixedBits.Statement (.walk rs1 rs2 rs3 rs4) := maskedS4 _ rs1 rs2 rs3 rs4

/-- `WALKB` (R196). -/
theorem FixedBits.walkb (rs1 rs2 rs3 rs4 : Reg) : FixedBits.Statement (.walkb rs1 rs2 rs3 rs4) := maskedS4 _ rs1 rs2 rs3 rs4

/-- `WNEXT` (R197). -/
theorem FixedBits.wnext (rd : Reg) : FixedBits.Statement (.wnext rd) := maskedD _ rd

/-- `RDFSR` (R210). -/
theorem FixedBits.rdfsr (rd : Reg) : FixedBits.Statement (.rdfsr rd) := maskedD _ rd

end Sys2Proof.Laws
end

