-- ==== Sys2Proof/Laws/Random.lean ====
section
/-! SUPPORT. The random generator: the engine visits every value (`70_reset_and_hazards.md` R265), so
from a seeded engine word every draw ends, and the fuel of the sampler is never used up. -/

namespace Sys2Proof.Machine

/-! ### The engine -/

/-- `48271 ^ e` modulo `2^31 - 1` by repeated squaring, for `e < 2 ^ rounds`. -/
def enginePower : Nat → Nat → Nat
  | 0, _ => 1
  | rounds + 1, e =>
    let half := enginePower rounds (e / 2)
    half * half % engineModulus * (if e % 2 = 1 then engineMultiplier else 1) % engineModulus

theorem enginePower_eq (rounds e : Nat) (h : e < 2 ^ rounds) :
    enginePower rounds e = engineMultiplier ^ e % engineModulus := by
  induction rounds generalizing e with
  | zero => obtain rfl : e = 0 := by simpa using h
            rfl
  | succ rounds ih =>
    have split : e = e / 2 + e / 2 + e % 2 := by omega
    simp only [enginePower, ih (e / 2) (by omega)]
    conv_rhs => rw [split, pow_add, pow_add]
    rcases Nat.mod_two_eq_zero_or_one e with odd | odd <;> simp [odd, Nat.mul_mod]

/-- The primes that divide `2^31 - 2` (R265). -/
theorem dvd_engineRange {q : Nat} (prime : q.Prime) (dvd : q ∣ 2147483646) :
    q ∈ [2, 3, 7, 11, 31, 151, 331] := by
  have factors : 2147483646 = 2 * 3 * 3 * 7 * 11 * 31 * 151 * 331 := by norm_num
  rw [factors] at dvd
  simp only [prime.dvd_mul] at dvd
  simp only [List.mem_cons, List.not_mem_nil, or_false]
  have same : ∀ p : Nat, p.Prime → q ∣ p → q = p :=
    fun p hp h => (Nat.prime_dvd_prime_iff_eq prime hp).1 h
  rcases dvd with ((((((h | h) | h) | h) | h) | h) | h) | h <;>
    have := same _ (by norm_num) h <;> omega

/-- R265: the multiplier to the `2^31 - 2` is 1, and to no quotient of it by a prime. -/
theorem engineMultiplier_pow (e : Nat) (h : e < 2 ^ 32) :
    ((engineMultiplier : Nat) : ZMod engineModulus) ^ e = 1 ↔ enginePower 32 e = 1 := by
  rw [enginePower_eq 32 e h, ← Nat.cast_pow,
    show (1 : ZMod engineModulus) = ((1 : Nat) : ZMod engineModulus) by simp,
    ZMod.natCast_eq_natCast_iff]
  rfl

theorem engineMultiplier_pow_div {q : Nat} (prime : q.Prime) (dvd : q ∣ 2147483646) :
    ((engineMultiplier : Nat) : ZMod engineModulus) ^ (2147483646 / q) ≠ 1 := by
  have listed := dvd_engineRange prime dvd
  rw [Ne, engineMultiplier_pow _ (by have := Nat.div_le_self 2147483646 q; omega)]
  simp only [List.mem_cons, List.not_mem_nil, or_false] at listed
  rcases listed with rfl | rfl | rfl | rfl | rfl | rfl | rfl <;> decide +kernel

theorem engineModulus_prime : engineModulus.Prime :=
  lucas_primality engineModulus ((engineMultiplier : Nat) : ZMod engineModulus)
    ((engineMultiplier_pow 2147483646 (by norm_num)).2 (by decide +kernel))
    fun _ prime dvd => engineMultiplier_pow_div prime dvd

theorem engineMultiplier_order :
    orderOf ((engineMultiplier : Nat) : ZMod engineModulus) = 2147483646 :=
  orderOf_eq_of_pow_and_pow_div_prime (by norm_num)
    ((engineMultiplier_pow 2147483646 (by norm_num)).2 (by decide +kernel))
    fun _ prime dvd => engineMultiplier_pow_div prime dvd

/-- `k` steps of the engine. -/
theorem engineNext_iterate (k x : Nat) :
    ((engineNext^[k] x : Nat) : ZMod engineModulus) = (engineMultiplier : ZMod engineModulus) ^ k * x := by
  induction k with
  | zero => simp
  | succ k ih =>
    rw [Function.iterate_succ_apply', engineNext, ZMod.natCast_mod, Nat.cast_mul, ih, pow_succ]
    ring

/-- The engine words of a seeded generator (R170, R171). -/
def legalWord (x : Nat) : Prop := 1 ≤ x ∧ x ≤ 2147483646

/-- R170: from a legal word the engine steps to a legal word. -/
theorem engineNext_legal {x : Nat} (h : legalWord x) : legalWord (engineNext x) := by
  have bound : engineNext x < 2147483647 := Nat.mod_lt _ (by decide)
  refine ⟨Nat.pos_of_ne_zero fun zero => ?_, by omega⟩
  have dvd := Nat.dvd_of_mod_eq_zero (show engineMultiplier * x % engineModulus = 0 from zero)
  rcases engineModulus_prime.dvd_mul.1 dvd with d | d
  · exact absurd (Nat.le_of_dvd (by decide) d) (by decide)
  · have := Nat.le_of_dvd (by have := h.1; omega) d
    have := h.2
    simp only [engineModulus] at *; omega

theorem iterate_legal {x : Nat} (h : legalWord x) (k : Nat) : legalWord (engineNext^[k] x) := by
  induction k with
  | zero => exact h
  | succ k ih => rw [Function.iterate_succ_apply']; exact engineNext_legal ih

/-- R265: from any legal word the engine comes to any other within `2^31 - 2` steps. -/
theorem engine_reaches {x y : Nat} (hx : legalWord x) (hy : legalWord y) :
    ∃ d, 1 ≤ d ∧ d ≤ 2147483646 ∧ engineNext^[d] x = y := by
  have : Fact engineModulus.Prime := ⟨engineModulus_prime⟩
  have unit : ∀ z, legalWord z → ((z : Nat) : ZMod engineModulus) ≠ 0 := fun z hz zero =>
    absurd (Nat.le_of_dvd hz.1 ((ZMod.natCast_eq_zero_iff _ _).1 zero))
      (by have := hz.2; simp only [engineModulus]; omega)
  let g := Units.mk0 ((engineMultiplier : Nat) : ZMod engineModulus) (unit _ ⟨by decide, by decide⟩)
  have order : orderOf g = 2147483646 := by
    rw [← orderOf_units, Units.val_mk0, engineMultiplier_order]
  have top : Subgroup.zpowers g = ⊤ := Subgroup.eq_top_of_card_eq _ <| by
    rw [Nat.card_zpowers, order, Nat.card_eq_fintype_card, ZMod.card_units]; rfl
  obtain ⟨e, he⟩ : (Units.mk0 _ (unit y hy)) * (Units.mk0 _ (unit x hx))⁻¹ ∈ Submonoid.powers g :=
    mem_powers_iff_mem_zpowers.2 (top ▸ Subgroup.mem_top _)
  have cast : ∀ k, g ^ k = g ^ e → engineNext^[k] x = y := fun k hk => by
    have eq : ((engineNext^[k] x : Nat) : ZMod engineModulus) = y := by
      rw [engineNext_iterate]
      have := congrArg (fun u : (ZMod engineModulus)ˣ => (u : ZMod engineModulus) * x) (hk.trans he)
      simpa [g, unit x hx] using this
    have := (ZMod.natCast_eq_natCast_iff' _ _ _).1 eq
    rwa [Nat.mod_eq_of_lt, Nat.mod_eq_of_lt] at this
    · have := hy.2; simp only [engineModulus]; omega
    · have := (iterate_legal hx k).2; simp only [engineModulus]; omega
  refine ⟨(e + 2147483645) % 2147483646 + 1, by omega, by omega, cast _ ?_⟩
  rw [pow_eq_pow_iff_modEq, order]
  show (_ + 1) % _ = _
  omega

/-! ### The draws -/

/-- A draw passes the rejected outputs only: it stops at an output ahead that would be accepted, or
before it. -/
theorem drawBelow_toward (y : Nat) (d fuel k b : Nat) (ahead : k < d) (room : d ≤ fuel + k)
    (accepted : engineNext^[d] b - 1 < y) :
    ∃ j, k < j ∧ j ≤ d ∧ drawBelow y fuel (engineNext^[k] b) =
      some (engineNext^[j] b - 1, engineNext^[j] b) := by
  induction fuel generalizing k with
  | zero => omega
  | succ fuel ih =>
    rw [drawBelow, ← Function.iterate_succ_apply' engineNext]
    split
    · exact ⟨k + 1, by omega, by omega, rfl⟩
    · rename_i rejected
      have : k + 1 ≠ d := fun e => rejected (by rw [Nat.succ_eq_add_one, e]; exact accepted)
      obtain ⟨j, lo, hi, eq⟩ := ih (k + 1) (by omega) (by omega)
      exact ⟨j, by omega, hi, eq⟩

/-- Every single draw ends: the output 1, with `u = 0`, is accepted by every threshold. -/
theorem drawBelow_completes {y x : Nat} (hy : 0 < y) (hx : legalWord x) :
    ∃ j, 0 < j ∧ drawBelow y samplerFuel x = some (engineNext^[j] x - 1, engineNext^[j] x) := by
  obtain ⟨d, lo, hi, eq⟩ := engine_reaches hx (y := 1) ⟨by decide, by decide⟩
  obtain ⟨j, pos, -, res⟩ := drawBelow_toward y d samplerFuel 0 x (by omega)
    (by simp only [samplerFuel]; omega) (by rw [eq]; omega)
  exact ⟨j, pos, res⟩

/-- A run of chunks ends in a legal word. -/
theorem drawChunks_completes {bits y D x : Nat} (count acc : Nat) (hy : 0 < count → 0 < y)
    (hx : legalWord x) :
    ∃ v x', drawChunks bits y D count acc x = some (v, x') ∧ legalWord x' := by
  induction count generalizing acc x with
  | zero => exact ⟨acc, x, rfl, hx⟩
  | succ count ih =>
    obtain ⟨j, -, eq⟩ := drawBelow_completes (hy (by omega)) hx
    simp only [drawChunks, eq]
    exact ih _ (fun _ => hy (by omega)) (iterate_legal hx j)

/-- The value that chunks make fits in the bits of its parts. -/
theorem drawChunks_value {bits y D x v x' a : Nat} (count acc : Nat) (hacc : acc < 2 ^ a)
    (fits : a + bits * count ≤ D) (h : drawChunks bits y D count acc x = some (v, x')) :
    v < 2 ^ (a + bits * count) := by
  induction count generalizing acc x a with
  | zero => cases h; simpa using hacc
  | succ count ih =>
    simp only [drawChunks] at h
    split at h
    · cases h
    · rename_i u _ _
      have wide : a + bits + bits * count = a + bits * (count + 1) := by ring
      rw [← wide] at fits ⊢
      refine ih _ (Nat.lt_of_le_of_lt (Nat.mod_le _ _) ?_) fits h
      rw [Nat.shiftLeft_eq, pow_add]
      have := Nat.mod_lt u (show 0 < 2 ^ bits from Nat.two_pow_pos _)
      nlinarith [Nat.two_pow_pos bits]

/-- Chunks drawn where a stretch of outputs, from number `d` on, would all be accepted: once there,
each takes the next output. -/
theorem drawChunks_index {bits y D b d len : Nat} (near : d ≤ samplerFuel)
    (count k acc : Nat)
    (stretch : 0 < count → ∀ i, d ≤ i → i < d + len → engineNext^[i] b - 1 < y)
    (hk : k + count < d + len) (hc : count ≤ len) :
    ∃ v j, drawChunks bits y D count acc (engineNext^[k] b) = some (v, engineNext^[j] b) ∧
      k + count ≤ j ∧ j + 1 ≤ max d (k + 1) + count := by
  induction count generalizing k acc with
  | zero => exact ⟨acc, k, rfl, by omega, by omega⟩
  | succ count ih =>
    obtain ⟨j, lo, hi, eq⟩ := drawBelow_toward y (max d (k + 1)) samplerFuel k b (by omega)
      (by have : 1 ≤ samplerFuel := by decide
          omega) (stretch (by omega) _ (by omega) (by omega))
    simp only [drawChunks, eq]
    obtain ⟨v, j', res, lo', hi'⟩ := ih j _ (fun _ => stretch (by omega)) (by omega) (by omega)
    exact ⟨v, j', res, by omega, by omega⟩

/-! ### The blocks and the retries -/

/-- R174, R178: what the parameters of every width have in common. -/
theorem samplerShape_facts (w : Nat) (lo : 1 ≤ w) (hi : w ≤ 64) :
    1 ≤ (samplerShape w).w0 ∧ 1 ≤ (samplerShape w).n0 ∧
    (samplerShape w).n0 ≤ (samplerShape w).n ∧ 2 ^ 30 ≤ (samplerShape w).y0 ∧
    (0 < (samplerShape w).n - (samplerShape w).n0 → 2 ^ 30 ≤ (samplerShape w).y1) ∧
    (samplerShape w).w0 * (samplerShape w).n0 +
      ((samplerShape w).w0 + 1) * ((samplerShape w).n - (samplerShape w).n0) = w := by
  have all : ((List.range 65).all fun w => w = 0 || decide (
      1 ≤ (samplerShape w).w0 ∧ 1 ≤ (samplerShape w).n0 ∧
      (samplerShape w).n0 ≤ (samplerShape w).n ∧ 2 ^ 30 ≤ (samplerShape w).y0 ∧
      (0 < (samplerShape w).n - (samplerShape w).n0 → 2 ^ 30 ≤ (samplerShape w).y1) ∧
      (samplerShape w).w0 * (samplerShape w).n0 +
        ((samplerShape w).w0 + 1) * ((samplerShape w).n - (samplerShape w).n0) = w)) = true := by
    decide +kernel
  have := List.all_eq_true.1 all w (List.mem_range.2 (by omega))
  simp only [Bool.or_eq_true, decide_eq_true_eq] at this
  exact this.resolve_left (by omega)

/-- For every width there are consecutive outputs, one for each that the block combines, which every
threshold accepts and whose chunk has its top bit clear. -/
theorem lowOutputs (w : Nat) (lo : 1 ≤ w) (hi : w ≤ 64) :
    ∃ x, legalWord x ∧ ∀ i, i < (samplerShape w).n →
      engineNext^[i] x - 1 < 2 ^ 30 ∧
      (engineNext^[i] x - 1) % 2 ^ (samplerShape w).w0 < 2 ^ ((samplerShape w).w0 - 1) := by
  have all : ((List.range 65).all fun w => w = 0 || [1, 2, 3, 5].any fun x =>
      (List.range (samplerShape w).n).all fun i => decide (engineNext^[i] x - 1 < 2 ^ 30 ∧
        (engineNext^[i] x - 1) % 2 ^ (samplerShape w).w0 < 2 ^ ((samplerShape w).w0 - 1))) = true := by
    decide +kernel
  have := List.all_eq_true.1 all w (List.mem_range.2 (by omega))
  simp only [Bool.or_eq_true, decide_eq_true_eq, List.any_eq_true, List.all_eq_true,
    List.mem_range] at this
  obtain ⟨x, listed, low⟩ := this.resolve_left (by omega)
  refine ⟨x, ?_, low⟩
  simp only [List.mem_cons, List.not_mem_nil, or_false] at listed
  rcases listed with rfl | rfl | rfl | rfl <;> exact ⟨by decide, by decide⟩

/-- R174: every block ends. -/
theorem drawBits_completes {w D x : Nat} (lo : 1 ≤ w) (hi : w ≤ 64) (hx : legalWord x) :
    ∃ v x', drawBits w D x = some (v, x') ∧ legalWord x' := by
  obtain ⟨-, -, -, hy0, hy1, -⟩ := samplerShape_facts w lo hi
  obtain ⟨v, x', eq, hx'⟩ := drawChunks_completes (bits := (samplerShape w).w0) (D := D)
    (samplerShape w).n0 0 (fun _ => Nat.lt_of_lt_of_le (by decide) hy0) hx
  simp only [drawBits, eq]
  exact drawChunks_completes _ _ (fun h => Nat.lt_of_lt_of_le (by decide) (hy1 h)) hx'

/-- A block whose first chunk has its top bit clear lies in the lower half of its range. -/
theorem drawBits_low {w D x v x' u y : Nat} (lo : 1 ≤ w) (hi : w ≤ 64) (hD : w ≤ D)
    (first : drawBelow (samplerShape w).y0 samplerFuel x = some (u, y))
    (low : u % 2 ^ (samplerShape w).w0 < 2 ^ ((samplerShape w).w0 - 1))
    (h : drawBits w D x = some (v, x')) : v < 2 ^ (w - 1) := by
  obtain ⟨hw0, hn0, hn, -, -, total⟩ := samplerShape_facts w lo hi
  obtain ⟨m, hm⟩ : ∃ m, (samplerShape w).n0 = m + 1 := ⟨_, (Nat.sub_add_cancel hn0).symm⟩
  obtain ⟨c, hc⟩ : ∃ c, (samplerShape w).w0 = c + 1 := ⟨_, (Nat.sub_add_cancel hw0).symm⟩
  have cut : w - 1 = c + (samplerShape w).w0 * m +
      ((samplerShape w).w0 + 1) * ((samplerShape w).n - (samplerShape w).n0) := by
    rw [hm, hc, Nat.mul_add] at total
    rw [hm, hc]; omega
  simp only [drawBits, hm, drawChunks, first] at h
  split at h
  · cases h
  · rename_i acc x1 eq
    rw [hc] at low
    have fits := drawChunks_value (a := c) m _
      (Nat.lt_of_le_of_lt (Nat.mod_le _ _) (by simpa [hc] using low)) (by omega) eq
    rw [cut, hm]
    exact drawChunks_value _ _ fits (by rw [← hm]; omega) h

/-- R175: every retry loop ends within its fuel. The outputs ahead at number `d` are those of
`lowOutputs`; a block that begins among them is accepted, and no block can pass over them all. -/
theorem drawInRange_completes {w D rp b d : Nat} (lo : 1 ≤ w) (hi : w ≤ 64) (hD : w ≤ D)
    (half : 2 ^ (w - 1) < rp) (hb : legalWord b) (near : d ≤ 2147483646)
    (ahead : ∀ i, d ≤ i → i < d + (samplerShape w).n → engineNext^[i] b - 1 < 2 ^ 30 ∧
      (engineNext^[i] b - 1) % 2 ^ (samplerShape w).w0 < 2 ^ ((samplerShape w).w0 - 1))
    (fuel k : Nat) (hk : k + 1 < d + (samplerShape w).n) (room : d - k < fuel) :
    ∃ v x, drawInRange w D rp fuel (engineNext^[k] b) = some (v, x) := by
  obtain ⟨hw0, hn0, hn, hy0, hy1, -⟩ := samplerShape_facts w lo hi
  induction fuel generalizing k with
  | zero => omega
  | succ fuel ih =>
    obtain ⟨v, x, eq, -⟩ := drawBits_completes (D := D) lo hi (iterate_legal hb k)
    obtain ⟨j, lo', hi', first⟩ := drawBelow_toward (samplerShape w).y0 (max d (k + 1)) samplerFuel k b
      (by omega) (by simp only [samplerFuel]; omega)
      (Nat.lt_of_lt_of_le (ahead _ (by omega) (by omega)).1 hy0)
    simp only [drawInRange, eq]
    split
    · exact ⟨v, x, rfl⟩
    · rename_i rejected
      have early : j < d := by
        by_contra late
        exact rejected (Nat.lt_trans
          (drawBits_low lo hi hD first (ahead j (by omega) (by omega)).2 eq) half)
      have len : d ≤ samplerFuel := by simp only [samplerFuel]; omega
      obtain ⟨m, hm⟩ : ∃ m, (samplerShape w).n0 = m + 1 := ⟨_, (Nat.sub_add_cancel hn0).symm⟩
      simp only [drawBits, hm, drawChunks, first] at eq
      obtain ⟨v1, j1, eq1, lo1, hi1⟩ := drawChunks_index (bits := (samplerShape w).w0) (D := D) len m j
        (((0 <<< (samplerShape w).w0) + (engineNext^[j] b - 1) % 2 ^ (samplerShape w).w0) % 2 ^ D)
        (fun _ i h h' => Nat.lt_of_lt_of_le (ahead i h h').1 hy0) (by omega) (by omega)
      rw [eq1] at eq
      obtain ⟨v2, j2, eq2, lo2, hi2⟩ := drawChunks_index (bits := (samplerShape w).w0 + 1) (D := D) len
        ((samplerShape w).n - (m + 1)) j1 v1
        (fun h i g g' => Nat.lt_of_lt_of_le (ahead i g g').1 (hy1 (by omega))) (by omega) (by omega)
      simp only [eq2, Option.some.injEq, Prod.mk.injEq] at eq
      rw [← eq.2]
      exact ih j2 (by omega) (by omega)

/-- R265: from every seeded engine word every uniform draw ends, for every range. -/
theorem uniform_completes {lo hi : Int} {D rng : Nat} (hD : D = 32 ∨ D = 64) (seeded : legalWord rng) :
    ∃ v r, uniform lo hi D rng = some (v, r) := by
  suffices offset : ∃ p, uniformOffset (rangeSize lo hi D) D rng = some p by
    obtain ⟨p, eq⟩ := offset
    exact ⟨_, _, by rw [uniform, eq]; rfl⟩
  have size : rangeSize lo hi D < 2 ^ D := by
    have pos : (0 : Int) < 2 ^ D := by positivity
    have := Int.emod_lt_of_pos (hi - lo + 1) pos
    have := Int.emod_nonneg (hi - lo + 1) pos.ne'
    have cast : ((2 ^ D : Nat) : Int) = 2 ^ D := by push_cast; rfl
    simp only [rangeSize]; omega
  generalize rangeSize lo hi D = rp at size
  unfold uniformOffset
  split
  · exact ⟨_, rfl⟩
  · split
    · obtain ⟨v, x, eq, -⟩ := drawBits_completes (w := D) (D := D) (by omega) (by omega) seeded
      exact ⟨_, eq⟩
    · have two : 2 ≤ rp := by omega
      have half := (bitsToCover_spec two).2
      have wlo : 1 ≤ bitsToCover rp := by simp only [bitsToCover]; omega
      have whi : bitsToCover rp ≤ D := by
        by_contra more
        have := Nat.pow_le_pow_right (n := 2) (by decide) (show D ≤ bitsToCover rp - 1 by omega)
        omega
      obtain ⟨x, hx, low⟩ := lowOutputs (bitsToCover rp) wlo (by omega)
      obtain ⟨d, hd, near, eq⟩ := engine_reaches seeded hx
      have n0 := samplerShape_facts (bitsToCover rp) wlo (by omega)
      obtain ⟨v, x', res⟩ := drawInRange_completes (b := rng) wlo (by omega) whi half seeded near
        (fun i h h' => by
          have := low (i - d) (by omega)
          rwa [← eq, ← Function.iterate_add_apply, Nat.sub_add_cancel h] at this)
        samplerFuel 0 (by omega) (by simp only [samplerFuel]; omega)
      exact ⟨_, res⟩

end Sys2Proof.Machine
end

