-- ==== Sys2Proof/Tests/Slice0.lean ====
section
/-! SUPPORT. The model's own tests. Expected values come from the spec: command words from the field
tables of `30_encoding.md`, results from `95_test_vectors.md` and the rules' examples. At the end, for
every statement with hypotheses, a witness that something meets them. -/

namespace Sys2Proof.Tests

-- The kernel evaluates the tests one after another, each in the thread that elaborates it.
set_option Elab.async false

open Sys2Proof Sys2Proof.Machine

/-! ### Well-formedness: what each check refuses (R73, R79) -/

theorem test_shift_64_is_ill_formed :
    (Instr.shli 0 1 64).wellFormed = false ∧ (Instr.shri 0 1 64).wellFormed = false ∧
    (Instr.shli 0 1 63).wellFormed = true := by decide

theorem test_ldfx_range :
    ldfxInRange (2 ^ 51) = false ∧ ldfxInRange (-2 ^ 51 - 1) = false ∧
    ldfxInRange (-2 ^ 51) = true ∧ ldfxInRange (2 ^ 51 - 1) = true := by decide

theorem test_ldi_written_integer :
    payloadOfInteger (2 ^ 64) = none ∧ payloadOfInteger (-2 ^ 63 - 1) = none ∧
    payloadOfInteger (-1) = some 0xFFFFFFFFFFFFFFFF := by decide

/-! ### Decoding: every command from a word written out from the field table -/

/-- R71, R72, R74: the move convert commands, with `rd` = 10, `rs1` = 5, `rs2` = 12, `rs3` = 3,
`rs4` = 9 and `sh` = 45 (binary 101101) where the format has them. -/
theorem test_decode_move_convert :
    decodeTableWord 96 0x0123456789ABCDEF01A00000 = some (.ldi 10 0x0123456789ABCDEF) ∧
    decodeTableWord 32 0x02A50000 = some (.mov 10 5) ∧
    decodeTableWord 32 0x03A50000 = some (.fromint 10 5) ∧
    decodeTableWord 32 0x04A50000 = some (.toint 10 5) ∧
    decodeTableWord 32 0x05A5C000 = some (.fromfrac 10 5 12) := by
  decide +kernel

/-- R71, R72, R74: the scalar three operand commands, with `rd` = 10, `rs1` = 5, `rs2` = 12, `rs3` = 3,
`rs4` = 9 and `sh` = 45 (binary 101101) where the format has them. -/
theorem test_decode_scalar_three_operand :
    decodeTableWord 32 0x10A5C000 = some (.add 10 5 12) ∧
    decodeTableWord 32 0x11A5C000 = some (.sub 10 5 12) ∧
    decodeTableWord 32 0x12A5C000 = some (.mul 10 5 12) ∧
    decodeTableWord 32 0x13A5C000 = some (.div 10 5 12) ∧
    decodeTableWord 32 0x14A5C000 = some (.mod 10 5 12) ∧
    decodeTableWord 32 0x15A5C000 = some (.erem 10 5 12) ∧
    decodeTableWord 32 0x1DA5C000 = some (.samesign 10 5 12) ∧
    decodeTableWord 32 0x1EA5C000 = some (.cmp 10 5 12) := by
  decide +kernel

/-- R71, R72, R74: the scalar two operand commands, with `rd` = 10, `rs1` = 5, `rs2` = 12, `rs3` = 3,
`rs4` = 9 and `sh` = 45 (binary 101101) where the format has them. -/
theorem test_decode_scalar_two_operand :
    decodeTableWord 32 0x16A50000 = some (.floor 10 5) ∧
    decodeTableWord 32 0x17A50000 = some (.ceil 10 5) ∧
    decodeTableWord 32 0x18A50000 = some (.round 10 5) ∧
    decodeTableWord 32 0x19A50000 = some (.abs 10 5) ∧
    decodeTableWord 32 0x1AA50000 = some (.sqrt 10 5) := by
  decide +kernel

/-- R71, R72, R74: the shift commands, with `rd` = 10, `rs1` = 5, `rs2` = 12, `rs3` = 3,
`rs4` = 9 and `sh` = 45 (binary 101101) where the format has them. -/
theorem test_decode_shift :
    decodeTableWord 32 0x1BA5B400 = some (.shli 10 5 45) ∧
    decodeTableWord 32 0x1CA5B400 = some (.shri 10 5 45) := by
  decide +kernel

/-- R71, R72, R74: the transcendental commands, with `rd` = 10, `rs1` = 5, `rs2` = 12, `rs3` = 3,
`rs4` = 9 and `sh` = 45 (binary 101101) where the format has them. -/
theorem test_decode_transcendental :
    decodeTableWord 32 0x20A5C000 = some (.pow 10 5 12) ∧
    decodeTableWord 32 0x21A50000 = some (.exp 10 5) ∧
    decodeTableWord 32 0x22A50000 = some (.cos 10 5) ∧
    decodeTableWord 32 0x23A50000 = some (.sin 10 5) ∧
    decodeTableWord 32 0x24A5C000 = some (.atan2 10 5 12) ∧
    decodeTableWord 32 0x25A50000 = some (.torad 10 5) := by
  decide +kernel

/-- R71, R72, R74: the random commands, with `rd` = 10, `rs1` = 5, `rs2` = 12, `rs3` = 3,
`rs4` = 9 and `sh` = 45 (binary 101101) where the format has them. -/
theorem test_decode_random :
    decodeTableWord 32 0x30050000 = some (.seed 5) ∧
    decodeTableWord 32 0x31A00000 = some (.rngget 10) ∧
    decodeTableWord 32 0x32A00000 = some (.randu32 10) ∧
    decodeTableWord 32 0x33A5C000 = some (.randi32 10 5 12) ∧
    decodeTableWord 32 0x34A5C000 = some (.randi64 10 5 12) := by
  decide +kernel

/-- R71, R72, R74: the grid commands, with `rd` = 10, `rs1` = 5, `rs2` = 12, `rs3` = 3,
`rs4` = 9 and `sh` = 45 (binary 101101) where the format has them. -/
theorem test_decode_grid :
    decodeTableWord 32 0x4005C000 = some (.setgrid 5 12) ∧
    decodeTableWord 32 0x4105C390 = some (.walk 5 12 3 9) ∧
    decodeTableWord 32 0x4205C390 = some (.walkb 5 12 3 9) ∧
    decodeTableWord 32 0x43A00000 = some (.wnext 10) := by
  decide +kernel

/-- R71, R72, R74: the system commands, with `rd` = 10, `rs1` = 5, `rs2` = 12, `rs3` = 3,
`rs4` = 9 and `sh` = 45 (binary 101101) where the format has them. -/
theorem test_decode_system :
    decodeTableWord 32 0x50A00000 = some (.rdfsr 10) := by
  decide +kernel

/-- R75: the all-zero word, an opcode not in the table, a reserved low bit, an unused register field, a
set bit under a shift count. -/
theorem test_decode_refuses :
    decodeTableWord 32 0x00000000 = none ∧ decodeTableWord 32 0xFF000000 = none ∧
    decodeTableWord 32 0x10312001 = none ∧ decodeTableWord 32 0x30150000 = none ∧
    decodeTableWord 32 0x1B310200 = none ∧ decodeTableWord 32 0x1F000000 = none := by decide +kernel

/-- R53: eleven bytes are no packet. -/
theorem test_short_packet : (decodeBytes (List.replicate 11 0)).toOption = none := by decide

/-- R53, R80: `DATA` little-endian, then `STATUS` in the lower half of byte 8. -/
theorem test_response_bytes :
    (responseBytes { status := .walkEnd, data := 0x0807060504030201 }).take 8 =
      [1, 2, 3, 4, 5, 6, 7, 8] ∧
    responseOfBytes [0x2A, 0, 0, 0, 0, 0, 0, 0x80, 0xF4] =
      some { status := .saturated, data := 0x800000000000002A } ∧
    responseOfBytes [0x2A, 0, 0, 0, 0, 0, 0, 0, 0x08] = none := by
  refine ⟨?_, by decide, by decide⟩
  unfold responseBytes
  generalize Cfg.responsePadding _ = pad
  revert pad
  decide

/-- R78. -/
theorem test_assembly : assemblyText (.shli 3 1 63) = "SHLI f3, f1, #63" := by decide +kernel

/-! ### One step of each command -/

/-- The machine after reset with `f1` and `f2` loaded, and 55H in `f3`. -/
def loaded (f1 f2 : Word) : State := ((State.reset.setReg 1 f1).setReg 2 f2).setReg 3 0x55

/-- What one step leaves: the status and `DATA` of its response, `f3`, and `FSR`. -/
def seen (s : State) : Option (Status × Word × Word × BitVec 8) :=
  match step s with
  | .next t => t.responses.getLast?.map fun r => (r.status, r.data, t.reg 3, t.fsr)
  | _ => none

/-- One packet met with `f1` and `f2` loaded; the payload is all ones, which only `LDI` reads. -/
def answered (cw : Word32) (f1 f2 : Word) : Option (Status × Word × Word × BitVec 8) :=
  seen ((loaded f1 f2).present { cw := cw, payload := 0xFFFFFFFFFFFFFFFF })

theorem test_ldi :
    answered 0x01300000 1 2 = some (.ok, 0xFFFFFFFFFFFFFFFF, 0xFFFFFFFFFFFFFFFF, 0) := by
  decide +kernel

theorem test_mov : answered 0x02310000 0x3000 2 = some (.ok, 0x3000, 0x3000, 0) := by decide +kernel

theorem test_fromint : -- R102
    answered 0x03310000 0xFFFFFFFFFFFFFFFB 0x0000000000000000 = some (.ok, 0xFFFFFFFFFFFFB000, 0xFFFFFFFFFFFFB000, 0) := by decide +kernel

theorem test_fromint_wraps : -- R102
    answered 0x03310000 0x0008000000000000 0x0000000000000000 = some (.ok, 0x8000000000000000, 0x8000000000000000, 0) := by decide +kernel

theorem test_toint_floors : -- R103
    answered 0x04310000 0xFFFFFFFFFFFFD800 0x0000000000000000 = some (.ok, 0xFFFFFFFFFFFFFFFD, 0xFFFFFFFFFFFFFFFD, 0) := by decide +kernel

theorem test_fromfrac_truncates : -- R104
    answered 0x05312000 0xFFFFFFFFFFFFFFFF 0x0000000000000003 = some (.ok, 0xFFFFFFFFFFFFFAAB, 0xFFFFFFFFFFFFFAAB, 0) := by decide +kernel

theorem test_fromfrac_zero : -- R104
    answered 0x05312000 0x0000000000000005 0x0000000000000000 = some (.divisionByZero, 0, 0x55, 2) := by decide +kernel

theorem test_add_wraps : -- R111
    answered 0x10312000 0x7FFFFFFFFFFFFFFF 0x0000000000000001 = some (.ok, 0x8000000000000000, 0x8000000000000000, 0) := by decide +kernel

theorem test_sub_wraps : -- R112
    answered 0x11312000 0x8000000000000000 0x0000000000000001 = some (.ok, 0x7FFFFFFFFFFFFFFF, 0x7FFFFFFFFFFFFFFF, 0) := by decide +kernel

theorem test_mul_floors : -- R113
    answered 0x12312000 0xFFFFFFFFFFFFFFFB 0x0000000000000064 = some (.ok, 0xFFFFFFFFFFFFFFFF, 0xFFFFFFFFFFFFFFFF, 0) := by decide +kernel

theorem test_mul_keeps_low_bits : -- R113
    answered 0x12312000 0x7FFFFFFFFFFFFFFF 0x7FFFFFFFFFFFFFFF = some (.ok, 0xFFF0000000000000, 0xFFF0000000000000, 0) := by decide +kernel

theorem test_div_exact_dividend : -- R114
    answered 0x13312000 0x0010000000000000 0x0000000000002000 = some (.ok, 0x0008000000000000, 0x0008000000000000, 0) := by decide +kernel

theorem test_div_zero_by_zero : -- R114
    answered 0x13312000 0x0000000000000000 0x0000000000000000 = some (.divisionByZero, 0, 0x55, 2) := by decide +kernel

theorem test_mod_sign_of_dividend : -- R115
    answered 0x14312000 0xFFFFFFFFFFFF9000 0x0000000000003000 = some (.ok, 0xFFFFFFFFFFFFF000, 0xFFFFFFFFFFFFF000, 0) := by decide +kernel

theorem test_mod_zero : -- R115
    answered 0x14312000 0x0000000000000005 0x0000000000000000 = some (.divisionByZero, 0, 0x55, 2) := by decide +kernel

theorem test_erem_negative_dividend : -- R116
    answered 0x15312000 0xFFFFFFFFFFFFCFFF 0x0000000000003000 = some (.ok, 0x0000000000002FFF, 0x0000000000002FFF, 0) := by decide +kernel

theorem test_erem_negative_bound : -- R116
    answered 0x15312000 0x0000000000000005 0xFFFFFFFFFFFFFFFD = some (.precondition, 0, 0x55, 64) := by decide +kernel

theorem test_floor_negative : -- R117
    answered 0x16310000 0xFFFFFFFFFFFFD800 0x0000000000000000 = some (.ok, 0xFFFFFFFFFFFFD000, 0xFFFFFFFFFFFFD000, 0) := by decide +kernel

theorem test_ceil_top_wraps : -- R118
    answered 0x17310000 0x7FFFFFFFFFFFF001 0x0000000000000000 = some (.ok, 0x8000000000000000, 0x8000000000000000, 0) := by decide +kernel

theorem test_ceil_negative : -- R118
    answered 0x17310000 0xFFFFFFFFFFFFD800 0x0000000000000000 = some (.ok, 0xFFFFFFFFFFFFE000, 0xFFFFFFFFFFFFE000, 0) := by decide +kernel

theorem test_round_negative_tie : -- R119
    answered 0x18310000 0xFFFFFFFFFFFFD800 0x0000000000000000 = some (.ok, 0xFFFFFFFFFFFFE000, 0xFFFFFFFFFFFFE000, 0) := by decide +kernel

theorem test_round_below_tie : -- R119
    answered 0x18310000 0x00000000000027FF 0x0000000000000000 = some (.ok, 0x0000000000002000, 0x0000000000002000, 0) := by decide +kernel

theorem test_abs_most_negative : -- R120
    answered 0x19310000 0x8000000000000000 0x0000000000000000 = some (.ok, 0x8000000000000000, 0x8000000000000000, 0) := by decide +kernel

theorem test_sqrt_two : -- R121
    answered 0x1A310000 0x0000000000002000 0x0000000000000000 = some (.ok, 0x0000000000001680, 0x0000000000001680, 0) := by decide +kernel

theorem test_sqrt_negative : -- R121
    answered 0x1A310000 0xFFFFFFFFFFFFFFFF 0x0000000000000000 = some (.domainError, 0, 0x55, 8) := by decide +kernel

theorem test_shli_63 : -- R122
    answered 0x1B31FC00 0x0000000000000003 0x0000000000000000 = some (.ok, 0x8000000000000000, 0x8000000000000000, 0) := by decide +kernel

theorem test_shri_floors : -- R123
    answered 0x1C310400 0xFFFFFFFFFFFFFFFB 0x0000000000000000 = some (.ok, 0xFFFFFFFFFFFFFFFD, 0xFFFFFFFFFFFFFFFD, 0) := by decide +kernel

theorem test_samesign_zero : -- R124
    answered 0x1D312000 0x0000000000000000 0xFFFFFFFFFFFFFFFB = some (.ok, 0x0000000000000000, 0x0000000000000000, 0) := by decide +kernel

theorem test_cmp_signed : -- R125
    answered 0x1E312000 0xFFFFFFFFFFFFFFFF 0x0000000000000000 = some (.ok, 0xFFFFFFFFFFFFFFFF, 0xFFFFFFFFFFFFFFFF, 0) := by decide +kernel

theorem test_pow_fraction : -- R142
    answered 0x20312000 0x0000000000009000 0x0000000000001800 = some (.ok, 0x000000000001B000, 0x000000000001B000, 0) := by decide +kernel

theorem test_pow_underflow : -- R142
    answered 0x20312000 0x0000000000000004 0xFFFFFFFFFFFFE000 = some (.divisionByZero, 0, 0x55, 2) := by decide +kernel

theorem test_exp_one : -- R143
    answered 0x21310000 0x0000000000001000 0x0000000000000000 = some (.ok, 0x0000000000002B7A, 0x0000000000002B7A, 0) := by decide +kernel

theorem test_exp_saturates : -- R143
    answered 0x21310000 0x0000000000023595 0x0000000000000000 = some (.saturated, 0x7FFFFFFFFFFFFFFF, 0x7FFFFFFFFFFFFFFF, 16) := by decide +kernel

theorem test_cos_most_negative : -- R145
    answered 0x22310000 0x8000000000000000 0x0000000000000000 = some (.ok, 0x0000000000000DB9, 0x0000000000000DB9, 0) := by decide +kernel

theorem test_sin_negative : -- R146
    answered 0x23310000 0xFFFFFFFFFFFFFFCD 0x0000000000000000 = some (.ok, 0xFFFFFFFFFFFFFFCE, 0xFFFFFFFFFFFFFFCE, 0) := by decide +kernel

theorem test_atan2_large_ratio : -- R148
    answered 0x24312000 0x8000000000000000 0x0000000000000001 = some (.ok, 0x0000000000004B73, 0x0000000000004B73, 0) := by decide +kernel

theorem test_atan2_origin : -- R148
    answered 0x24312000 0x0000000000000000 0x0000000000000000 = some (.precondition, 0, 0x55, 64) := by decide +kernel

theorem test_torad_negative : -- R149
    answered 0x25310000 0xFFFFFFFFFFFA6000 0x0000000000000000 = some (.ok, 0xFFFFFFFFFFFFE6DE, 0xFFFFFFFFFFFFE6DE, 0) := by decide +kernel

/-! ### The random generator (R171 to R177, from engine word 42) -/

/-- The same, with an engine word. -/
def drawn (rng : Word32) (cw : Word32) (f1 f2 : Word) : Option (Status × Word × Word × BitVec 8) :=
  seen (((loaded f1 f2).setRng rng).present { cw := cw, payload := 0 })

/-- The engine word that one step leaves. -/
def engineAfter (s : State) : Option Word32 :=
  match step s with
  | .next t => some t.rng
  | _ => none

theorem test_seed_modulus :
    engineAfter ((loaded 0xABC7FFFFFFF 0).present { cw := 0x30010000, payload := 0 }) = some 1 := by
  decide +kernel

theorem test_seed_42 :
    engineAfter ((loaded 42 0).present { cw := 0x30010000, payload := 0 }) = some 42 := by
  decide +kernel

theorem test_rngget : drawn 42 0x31300000 0 0 = some (.ok, 42, 42, 0) := by decide +kernel

theorem test_randu32 : drawn 42 0x32300000 0 0 = some (.ok, 2027382, 2027382, 0) := by decide +kernel

theorem test_randu32_unseeded : drawn 0 0x32300000 0 0 = some (.precondition, 0, 0x55, 64) := by
  decide +kernel

/-- R176's second call: one output is rejected. -/
theorem test_randi32_retry : drawn 2027382 0x33312000 1 6 = some (.ok, 5, 5, 0) := by decide +kernel

theorem test_randi32_range :
    drawn 42 0x33312000 6 0x500000001 = some (.invalidRange, 0, 0x55, 4) := by decide +kernel

/-- R177: the full range, three outputs. -/
theorem test_randi64_full :
    drawn 42 0x34312000 0x8000000000000000 0x7FFFFFFFFFFFFFFF =
      some (.ok, 8609660495342805396, 8609660495342805396, 0) := by decide +kernel

theorem test_randi64_unseeded : drawn 0 0x34312000 6 5 = some (.precondition, 0, 0x55, 64) := by
  decide +kernel

/-! ### The grid walker (R190 to R197) -/

/-- R195's example: `f0` = `f1` = 10.0, `f2` = 150.0, `f3` = 100.0, and the bound 2 by 2. -/
def segment : State :=
  ((((State.reset.setReg 0 40960).setReg 1 40960).setReg 2 614400).setReg 3 409600).setGrid 2 2

/-- The queue that one step leaves. -/
def queueAfter (s : State) : Option (List Cell) :=
  match step s with
  | .next t => some t.wq
  | _ => none

theorem test_setgrid :
    (match step ((loaded 0xF00000002 0xFFFFFFFF).present { cw := 0x40012000, payload := 0 }) with
      | .next t => some (t.gridW, t.gridH)
      | _ => none) = some (2, 0xFFFFFFFF) := by decide +kernel

theorem test_walk :
    queueAfter (segment.present { cw := 0x41001230, payload := 0 }) =
      some [⟨0, 0⟩, ⟨1, 0⟩, ⟨1, 1⟩, ⟨2, 1⟩] := by decide +kernel

/-- R193: the exchanged walk through a corner reports the y step first. -/
theorem test_walk_corner : walkCells 393216 393216 131072 131072 = [(1, 1), (1, 0), (0, 0)] := by
  decide +kernel

theorem test_walkb :
    queueAfter (segment.present { cw := 0x42001230, payload := 0 }) =
      some [⟨0, 0⟩, ⟨1, 0⟩, ⟨1, 1⟩] := by decide +kernel

theorem test_walkb_outside :
    answered 0x42111110 0 0 = some (.illegalCommand, 0, 0x55, 32) ∧
    answered 0x42011110 0x0002000000000000 0 = some (.precondition, 0, 0x55, 64) := by decide +kernel

theorem test_wnext :
    seen (((loaded 0 0).setWq [⟨0xFFFFFFFE, 3⟩, ⟨0, 0⟩]).present { cw := 0x43300000, payload := 0 }) =
      some (.ok, 0x00000003FFFFFFFE, 0x00000003FFFFFFFE, 0) := by decide +kernel

theorem test_wnext_end : answered 0x43300000 0 0 = some (.walkEnd, 0, 0x55, 0) := by decide +kernel

/-! ### The system command and the ports -/

theorem test_rdfsr :
    seen (((loaded 0 0).raise .divisionByZero).present { cw := 0x50300000, payload := 0 }) =
      some (.ok, 2, 2, 2) := by decide +kernel

theorem test_illegal : answered 0 0 0 = some (.illegalCommand, 0, 0x55, 32) := by decide +kernel

/-- R260: a command that reset meets in progress leaves no trace. -/
theorem test_reset_during :
    step { loaded 1 2 with host := [.resetDuring { cw := 0x10312000, payload := 0 }] } =
      .next State.reset := by
  simp only [step, State.takeEvent, meet]
  exact congrArg _ (by decide +kernel)

theorem test_fetch_word :
    seen ((loaded 4096 8192).withFetchWord 32 0x10312000) = some (.ok, 12288, 12288, 0) := by
  decide +kernel

/-! ### The reference tables (R221) and the configuration (R216, R217) -/

theorem test_cosine_table :
    referenceCfg.cosTable.length = 512 ∧
    (referenceCfg.cosTable.map s64).sum = 0 ∧
    (referenceCfg.cosTable.map fun w => s64 w * s64 w).sum = 4295025972 ∧
    tableRead referenceCfg.cosTable 256 = -4096 := by decide +kernel

theorem test_sine_table :
    referenceCfg.sinTable.length = 512 ∧
    (referenceCfg.sinTable.map s64).sum = 0 ∧
    (referenceCfg.sinTable.map fun w => s64 w * s64 w).sum = 4295025972 ∧
    tableRead referenceCfg.sinTable 384 = -4096 := by decide +kernel

theorem test_tables_shifted :
    referenceCfg.cosTable = referenceCfg.sinTable.drop 128 ++ referenceCfg.sinTable.take 128 := by
  decide +kernel

theorem test_tangent_table :
    referenceCfg.tanTable.length = 512 ∧ (referenceCfg.tanTable.map s64).sum = 8496447 ∧
    tableRead referenceCfg.tanTable 257 = 4121 ∧
    tableRead referenceCfg.tanTable 511 = 1335084 := by decide +kernel

theorem test_reference_is_valid : cfgValid referenceCfg = true := by decide +kernel

/-! ### Witnesses: every statement with hypotheses has something that meets them -/

/-- A seeded machine whose next packet is `RANDU32 f3`, with the largest engine word. -/
def lastEngine : State :=
  ((loaded 1 2).setRng 2147483646).present { cw := 0x32300000, payload := 0 }

theorem witness_DecodeOfEncodedInstruction : (Instr.shli 15 0 63).wellFormed = true := by decide

theorem witness_DecodedPacketIsItsEncoding :
    decode { cw := 0x1B31FC00, payload := 1 } = .ok (.shli 3 1 63) ∧
    decode { cw := 0x01F00000, payload := 7 } = .ok (.ldi 15 7) := ⟨rfl, rfl⟩

theorem witness_CommandWordsAreTheMaskedWords :
    (0x01, Format.D) ∈ opcodeMap ∧ (0x50, Format.D) ∈ opcodeMap := by decide

theorem witness_IllegalWordIsAnswered : ∀ row ∈ opcodeMap, ¬ matchesRow 0x10312001 row := by
  unfold matchesRow; decide

theorem witness_StepRunsTheDecodedCommand :
    lastEngine.host = .command { cw := 0x32300000, payload := 0 } :: [] ∧
    decode { cw := 0x32300000, payload := 0 } = .ok (.randu32 3) := ⟨rfl, rfl⟩

theorem witness_PayloadIsForLdiAlone : opField 0x02310000 ≠ 0x01 := by decide

theorem witness_ResetLeavesTheResetState :
    { loaded 1 2 with host := [.reset] }.host = .reset :: [] ∧
    { loaded 1 2 with host := [.resetDuring { cw := 0, payload := 0 }] }.host =
      .resetDuring { cw := 0, payload := 0 } :: [] := ⟨rfl, rfl⟩

theorem witness_OneResponsePerAcceptedPacket :
    (∃ t, step (loaded 1 2) = .next t ∧ (loaded 1 2).host = []) ∧
    (∃ t p, step lastEngine = .next t ∧ lastEngine.host = .command p :: []) ∧
    (∃ t, step { loaded 1 2 with host := [.reset] } = .next t) :=
  ⟨⟨_, rfl, rfl⟩, ⟨_, _, rfl, rfl⟩, ⟨_, rfl⟩⟩

theorem witness_StepKeepsTheInvariant : lastEngine.Inv ∧ ∃ t, step lastEngine = .next t :=
  ⟨⟨by decide, by decide, by decide, by decide, test_reference_is_valid⟩, _, rfl⟩

theorem witness_SeededGeneratorStaysSeeded :
    lastEngine.seeded ∧ lastEngine.noReset ∧ ∃ t, step lastEngine = .next t :=
  ⟨⟨by decide, by decide⟩, by rintro e ⟨⟩; exact ⟨nofun, nofun⟩, _, rfl⟩

theorem witness_StatusIsRecordedUntilReset :
    (∃ t, accept { cw := 0x13312000, payload := 0 } (loaded 5 0) = .next t) ∧
    (lastEngine.raise .precondition).noReset ∧
    (∃ t, step (lastEngine.raise .precondition) = .next t) ∧
    (lastEngine.raise .precondition).fsr.getLsbD 6 = true :=
  ⟨⟨_, rfl⟩, by rintro e ⟨⟩; exact ⟨nofun, nofun⟩, ⟨_, rfl⟩, by decide⟩

theorem witness_ConfigurationNeverChanges : ∃ t, step lastEngine = .next t := ⟨_, rfl⟩

theorem witness_OnlyTheNamedCommandsWrite :
    (∃ t, exec (.add 3 1 2) (loaded 1 2) = .next t) ∧ writesRng (.add 3 1 2) = false ∧
    writesGrid (.add 3 1 2) = false ∧ writesWq (.add 3 1 2) = false ∧
    destOf (.add 3 1 2) ≠ some 15 := ⟨⟨_, rfl⟩, by decide, by decide, by decide, by decide⟩

theorem witness_FaultChangesNothingElse :
    ∃ t, accept { cw := 0x13312000, payload := 0 } (loaded 5 0) = .next t ∧
      t.responses = (loaded 5 0).responses ++ [{ status := .divisionByZero, data := 0 }] ∧
      isFaultStatus .divisionByZero = true := ⟨_, rfl, by decide +kernel, rfl⟩

theorem witness_StatusesOfEachCommand :
    ∃ t, exec (.sqrt 3 1) (loaded (-1) 0) = .next t ∧
      t.responses = (loaded (-1) 0).responses ++ [{ status := .domainError, data := 0 }] :=
  ⟨_, rfl, by decide +kernel⟩

theorem witness_DataIsTheWrittenValue :
    (∃ t, exec (.exp 3 1) (loaded 262145 0) = .next t ∧
      t.responses = (loaded 262145 0).responses ++
        [{ status := .saturated, data := 0x7FFFFFFFFFFFFFFF }] ∧ destOf (.exp 3 1) = some 3) ∧
    (∃ t, exec (.seed 1) (loaded 1 2) = .next t ∧
      t.responses = (loaded 1 2).responses ++ [{ status := .ok, data := 0 }] ∧
      destOf (.seed 1) = none) ∧
    (∃ t, exec (.wnext 3) (loaded 1 2) = .next t ∧
      t.responses = (loaded 1 2).responses ++ [{ status := .walkEnd, data := 0 }]) :=
  ⟨⟨_, rfl, by decide +kernel, rfl⟩, ⟨_, rfl, by decide +kernel, rfl⟩, ⟨_, rfl, by decide +kernel⟩⟩

theorem witness_IntegerRoundTrips :
    ((-2 : Int) ^ 51 ≤ -2 ^ 51 ∧ (-2 : Int) ^ 51 < 2 ^ 51) ∧
    ((-2 : Int) ^ 63 ≤ 2 ^ 63 - 1 ∧ (2 : Int) ^ 63 - 1 < 2 ^ 63) := by decide

theorem witness_FractionResult : (loaded 1 1).x 2 ≠ 0 ∧ (loaded 1 0).x 2 = 0 := by decide +kernel

theorem witness_DivideAndRemainderResults : (loaded 1 (-1)).x 2 ≠ 0 ∧ (loaded 0 0).x 2 = 0 := by
  decide +kernel

theorem witness_EuclideanRemainderResult :
    0 < (loaded 1 1).x 2 ∧ (loaded 1 0).x 2 = 0 ∧ (loaded 1 (-1)).x 2 < 0 := by decide +kernel

theorem witness_SquareRootResult : 0 ≤ (loaded 0 0).x 1 ∧ (loaded (-1) 0).x 1 < 0 := by
  decide +kernel

theorem witness_PowerResults :
    (loaded 0 0).x 2 = 0 ∧
    ((loaded 0 (-1)).x 2 ≠ 0 ∧ (loaded 0 (-1)).x 1 = 0) ∧
    ((loaded (-1) 4095).x 1 < 0 ∧ ((loaded (-1) 4095).x 2).natAbs % 4096 ≠ 0) ∧
    (0 < (loaded (-1) 4096).x 2 ∧ ((loaded (-1) 4096).x 2).natAbs % 4096 = 0 ∧
      powPositive (-1) 4096 = (-1, false)) ∧
    ((loaded 8192 (-4096)).x 2 < 0 ∧ 0 < (loaded 8192 (-4096)).x 1 ∧
      powPositive 8192 4096 = (8192, false)) ∧
    ((loaded 4 (-8192)).x 2 < 0 ∧ 0 < (loaded 4 (-8192)).x 1 ∧
      powPositive 4 8192 = (0, false)) := by decide +kernel

theorem witness_PowersOfOne : (loaded 4096 0x8000000000000000).x 1 = 4096 := by decide +kernel

theorem witness_PowersOfTwo :
    ((loaded 8192 204800).x 1 = 8192 ∧ (loaded 8192 204800).x 2 = ((50 : Nat) : Int) * 4096) ∧
    (loaded 8192 208896).x 2 = ((51 : Nat) : Int) * 4096 := by decide +kernel

theorem witness_ExponentialResults :
    s64 (loaded 262145 0).cfg.expInMax < (loaded 262145 0).x 1 ∧
    (loaded (-262145) 0).x 1 < s64 (loaded 0 0).cfg.expInMin ∧
    (expScale referenceCfg 0 = 0 ∧ expSum referenceCfg 0 = 4096) ∧
    kMax < expSum referenceCfg 144789 * 2 ^ (expScale referenceCfg 144789).toNat ∧
    expScale referenceCfg (-2839) = -1 ∧ expScale referenceCfg (-262144) ≤ -64 := by decide +kernel

/-- For the clause of a sum that is clamped below: a configuration whose series starts with a large
negative term. -/
theorem witness_ExponentialResults_below :
    let c := { referenceCfg with kLn2 := 0x6000000000000000, kInvLn2 := 0x800000, expTerms := 1 }
    0 ≤ expScale c 2 ∧ expSum c 2 * 2 ^ (expScale c 2).toNat < kMin := by decide +kernel

theorem witness_ExponentialOfZero :
    cfgValid (loaded 0 0).cfg = true ∧ (loaded 0 0).x 1 = 0 :=
  ⟨test_reference_is_valid, by decide +kernel⟩

theorem witness_CosineAndSineResults :
    44 = ((loaded 0x8000000000000000 0).x 1).natAbs * 512 / (s64 referenceCfg.kTwoPi).toNat % 512 := by
  decide +kernel

theorem witness_TangentSearchIsTheLargestIndex :
    cfgValid referenceCfg = true ∧ tableRead referenceCfg.tanTable 511 ≤ 1335084 ∧
    tableRead referenceCfg.tanTable 0 ≤ 0 ∧
    ∀ j, j ≤ 511 → -1 < tableRead referenceCfg.tanTable j := by
  refine ⟨test_reference_is_valid, by decide +kernel, by decide +kernel, fun j h => ?_⟩
  have long : j < referenceCfg.tanTable.length := by rw [test_tangent_table.1]; omega
  have all : (referenceCfg.tanTable.all fun w => decide (-1 < s64 w)) = true := by decide +kernel
  have entry : tableRead referenceCfg.tanTable j = s64 referenceCfg.tanTable[j] :=
    congrArg s64 (List.getD_eq_getElem _ _ long)
  exact entry ▸ of_decide_eq_true (List.all_eq_true.1 all _ (List.getElem_mem long))

theorem witness_BinarySearchFindsTheIndex : cfgValid referenceCfg = true := test_reference_is_valid

theorem witness_ArctangentResults :
    (0 < (loaded 1 0).x 1 ∧ (loaded 1 0).x 2 = 0) ∧ (loaded (-1) 0).x 1 < 0 ∧
    ((loaded 0 0).x 1 = 0 ∧ (loaded 0 0).x 2 = 0) ∧
    (0 < (loaded 0 1).x 2 ∧ 0 ≤ (loaded 0 1).x 1) ∧
    ((loaded 0 (-1)).x 2 < 0 ∧ 0 ≤ (loaded 0 (-1)).x 1) ∧
    ((loaded (-1) (-1)).x 2 < 0 ∧ (loaded (-1) (-1)).x 1 < 0) ∧
    (0 < (loaded (-1) 1).x 2 ∧ (loaded (-1) 1).x 1 < 0) := by decide +kernel

theorem witness_ArctangentStaysInOneTurn :
    cfgValid (loaded 0 1).cfg = true ∧ ((loaded 0 1).x 1 ≠ 0 ∨ (loaded 0 1).x 2 ≠ 0) :=
  ⟨test_reference_is_valid, by decide +kernel⟩

theorem witness_RadiansResultWithinOneTurn :
    cfgValid (loaded 368640 0).cfg = true ∧
    6434 = Int.tdiv (Int.tmod ((loaded 368640 0).x 1) 1474560 *
      s64 (loaded 368640 0).cfg.kTwoPi / 4096 * 4096) 1474560 :=
  ⟨test_reference_is_valid, by decide +kernel⟩

theorem witness_SeedResult : 2147483647 = ((loaded 0x17FFFFFFF 0).reg 1).toNat % 2 ^ 32 := by
  decide +kernel

theorem witness_EngineReadAndDrawResults :
    lastEngine.rng ≠ 0 ∧ (loaded 1 2).rng = 0 ∧
    2147435376 = 48271 * lastEngine.rng.toNat % 2147483647 := by decide +kernel

theorem witness_SavedEngineWordIsRestored :
    lastEngine.seeded ∧ (loaded 2147483646 0).reg 1 = BitVec.ofNat 64 lastEngine.rng.toNat :=
  ⟨⟨by decide, by decide⟩, by decide +kernel⟩

/-- The machine with the engine word 42 and two bounds. -/
def bounds (lo hi : Word) : State := (loaded lo hi).setRng 42

theorem witness_UniformDrawResults :
    (loaded 1 6).rng = 0 ∧ (bounds 6 5).rng ≠ 0 ∧
    ((bounds 6 5).xI32 2 < (bounds 6 5).xI32 1 ∧ (bounds 6 5).x 2 < (bounds 6 5).x 1) ∧
    ((bounds 1 6).xI32 1 ≤ (bounds 1 6).xI32 2 ∧ uniform 1 6 32 42 = some (6, 2027382)) ∧
    ((bounds 1 6).x 1 ≤ (bounds 1 6).x 2 ∧ uniform 1 6 64 42 = some (6, 2027382)) := by
  decide +kernel

theorem witness_UniformDrawStaysInRange :
    ((bounds 1 6).rng ≠ 0 ∧ (bounds 1 6).xI32 1 ≤ (bounds 1 6).xI32 2 ∧
      (bounds 1 6).x 1 ≤ (bounds 1 6).x 2) ∧
    (∃ t, exec (.randi32 3 1 2) (bounds 1 6) = .next t) ∧
    (∃ t, exec (.randi64 3 1 2) (bounds 1 6) = .next t) := by
  have draws := witness_UniformDrawResults.2.2.2
  refine ⟨⟨by decide, draws.1.1, draws.2.1⟩, ⟨(bounds 1 6).setRng 2027382 |>.deliver 3 6 .ok, ?_⟩,
    ⟨(bounds 1 6).setRng 2027382 |>.deliver 3 6 .ok, ?_⟩⟩
  · rw [exec, execRandi32, State.sampleOrRaise, if_neg (by decide), if_neg (by decide +kernel)]
    rw [show (bounds 1 6).xI32 1 = 1 by decide +kernel, show (bounds 1 6).xI32 2 = 6 by decide +kernel]
    exact congrArg (State.deliverSample _ 3) draws.1.2
  · rw [exec, execRandi64, State.sampleOrRaise, if_neg (by decide), if_neg (by decide +kernel)]
    rw [show (bounds 1 6).x 1 = 1 by decide +kernel, show (bounds 1 6).x 2 = 6 by decide +kernel]
    exact congrArg (State.deliverSample _ 3) draws.2.2

theorem witness_EqualBoundsDrawNothing :
    (bounds 6 0x100000006).rng ≠ 0 ∧
    (bounds 6 0x100000006).xI32 1 = (bounds 6 0x100000006).xI32 2 ∧
    (bounds 6 6).x 1 = (bounds 6 6).x 2 := by decide +kernel

/-- From the first and the last engine word: equal bounds, the least range of two values, and the full
range of each width. -/
theorem witness_SeededDrawsComplete :
    lastEngine.seeded ∧ ((loaded 0 0).setRng 1).seeded ∧
    (bounds 6 6).xI32 1 ≤ (bounds 6 6).xI32 2 ∧
    (bounds 0x80000000 0x7FFFFFFF).xI32 1 ≤ (bounds 0x80000000 0x7FFFFFFF).xI32 2 ∧
    (bounds (-1) 0).x 1 ≤ (bounds (-1) 0).x 2 ∧
    (bounds 0x8000000000000000 0x7FFFFFFFFFFFFFFF).x 1 ≤
      (bounds 0x8000000000000000 0x7FFFFFFFFFFFFFFF).x 2 :=
  ⟨⟨by decide, by decide⟩, ⟨by decide, by decide⟩, by decide +kernel⟩

theorem witness_WalkResults :
    coordinatesLegal ((loaded 0xFFFE000000000000 0x0001FFFFFFFFFFFF).x 1)
      ((loaded 0xFFFE000000000000 0x0001FFFFFFFFFFFF).x 2) 0 0 ∧
    ¬ coordinatesLegal ((loaded 0 0x0002000000000000).x 1)
      ((loaded 0 0x0002000000000000).x 2) 0 0 := by
  unfold coordinatesLegal; decide +kernel

theorem witness_DirectGeneratorAgrees :
    coordinatesLegal 393216 393216 131072 131072 ∧ cellIndex 393216 ≠ cellIndex 131072 := by
  unfold coordinatesLegal; decide +kernel

theorem witness_WalkCellsFitTheQueue :
    coordinatesLegal (-2 ^ 49) (2 ^ 49 - 1) (-2 ^ 49) (2 ^ 49 - 1) ∧
    (-2147483648, 2147483647) ∈ walkCells (-2 ^ 49) (2 ^ 49 - 1) (-2 ^ 49) (2 ^ 49 - 1) := by
  unfold coordinatesLegal; decide +kernel

theorem witness_NextCellResults :
    (segment.setWq [⟨0, 0⟩]).wq = ⟨0, 0⟩ :: [] ∧ segment.wq = [] := ⟨rfl, rfl⟩

end Sys2Proof.Tests
end

/-! Facts about the state and its invariant that the statements of `10_state.md` rest on. -/

namespace Sys2Proof.Machine

/-! ### One step, and what reset leaves -/

/-- R70: a step takes the head of the host's list and meets it. -/
theorem step_of_host {s : State} {e : HostEvent} {rest : List HostEvent} (h : s.host = e :: rest) :
    step s = meet e { s with host := rest } := by
  simp only [step, State.takeEvent_of_host h]

/-- R236: with nothing presented the unit stays as it is. -/
theorem step_of_idle {s : State} (h : s.host = []) : step s = .next s := by
  simp only [step, State.takeEvent, h]

/-- R260: the two events that assert reset are met alike. -/
theorem meet_of_reset {e : HostEvent} (s : State) (h : e = .reset ∨ ∃ p, e = .resetDuring p) :
    meet e s = .next s.assertReset := by
  obtain rfl | ⟨p, rfl⟩ := h <;> rfl

/-- R33, R260: reset leaves every piece of the architectural state at its reset value. -/
theorem State.assertReset_atReset (s : State) : s.assertReset.AtReset where
  regs := s.assertReset_reg
  rng := rfl
  gridW := rfl
  gridH := rfl
  wq := rfl
  fsr := rfl

/-- The state after reset is what asserting reset makes of it. -/
theorem State.assertReset_reset : State.reset.assertReset = State.reset := rfl

theorem State.reset_atReset : State.reset.AtReset :=
  State.assertReset_reset ▸ State.reset.assertReset_atReset

/-- Settles O9: both reset events are met by `assertReset`, which leaves the reset values. -/
theorem resetLeavesTheResetState : Obligations.ResetLeavesTheResetState := by
  refine ⟨State.reset_atReset, ?_⟩
  intro s e rest host isReset
  refine ⟨_, (step_of_host host).trans (meet_of_reset _ isReset), ?_, rfl, rfl, rfl⟩
  exact State.assertReset_atReset _

/-! ### The invariant holds after reset, and of every state whose architectural state is reset -/

/-- R27, R26, R29: the reset values meet the invariant, beside any configuration that meets R216. -/
theorem State.AtReset.inv {s : State} (h : s.AtReset) (cfg : cfgValid s.cfg = true) : s.Inv where
  rng := by simp [h.rng]
  fsr0 := by simp [h.fsr]
  fsr7 := by simp [h.fsr]
  wq := by simp [h.wq]
  cfg := cfg

/-- R217: the reference instantiation meets R216, by evaluating its tables. -/
theorem cfgValid_referenceCfg : cfgValid referenceCfg = true := by decide +kernel

/-- Settles O13: the reset values meet the invariant, and the reference configuration meets R216. -/
theorem resetMeetsTheInvariant : Obligations.ResetMeetsTheInvariant :=
  State.reset_atReset.inv cfgValid_referenceCfg

/-! ### The engine word that a draw leaves -/

/-- R170: the engine comes from `x` to `y` by some number of steps. -/
def EngineReaches (x y : Nat) : Prop := ∃ k, engineNext^[k] x = y

theorem EngineReaches.refl (x : Nat) : EngineReaches x x := ⟨0, rfl⟩

theorem EngineReaches.next (x : Nat) : EngineReaches x (engineNext x) := ⟨1, rfl⟩

theorem EngineReaches.trans {x y z : Nat} (hxy : EngineReaches x y) (hyz : EngineReaches y z) :
    EngineReaches x z := by
  obtain ⟨k, rfl⟩ := hxy
  obtain ⟨l, rfl⟩ := hyz
  exact ⟨l + k, Function.iterate_add_apply engineNext l k x⟩

/-- R170: what the engine reaches from a legal word is legal. -/
theorem EngineReaches.legal {x y : Nat} (h : EngineReaches x y) (hx : legalWord x) : legalWord y := by
  obtain ⟨k, rfl⟩ := h
  exact iterate_legal hx k

theorem drawBelow_reaches {y fuel x u x' : Nat} (h : drawBelow y fuel x = some (u, x')) :
    EngineReaches x x' := by
  induction fuel generalizing x with
  | zero => cases h
  | succ fuel ih =>
    rw [drawBelow] at h
    split at h
    · cases h
      exact .next x
    · exact (EngineReaches.next x).trans (ih h)

theorem drawChunks_reaches {bits y D count acc x v x' : Nat}
    (h : drawChunks bits y D count acc x = some (v, x')) : EngineReaches x x' := by
  induction count generalizing acc x with
  | zero =>
    cases h
    exact .refl _
  | succ count ih =>
    rw [drawChunks] at h
    split at h
    · cases h
    next draw => exact (drawBelow_reaches draw).trans (ih h)

theorem drawBits_reaches {w D x v x' : Nat} (h : drawBits w D x = some (v, x')) :
    EngineReaches x x' := by
  rw [drawBits] at h
  split at h
  · cases h
  next first => exact (drawChunks_reaches first).trans (drawChunks_reaches h)

theorem drawInRange_reaches {w D rp fuel x v x' : Nat} (h : drawInRange w D rp fuel x = some (v, x')) :
    EngineReaches x x' := by
  induction fuel generalizing x with
  | zero => cases h
  | succ fuel ih =>
    rw [drawInRange] at h
    split at h
    · cases h
    next block =>
      split at h
      · cases h
        exact drawBits_reaches block
      · exact (drawBits_reaches block).trans (ih h)

theorem uniformOffset_reaches {rp D x u x' : Nat} (h : uniformOffset rp D x = some (u, x')) :
    EngineReaches x x' := by
  rw [uniformOffset] at h
  split_ifs at h
  · cases h
    exact .refl _
  · exact drawBits_reaches h
  · exact drawInRange_reaches h

/-- R175: a uniform draw moves the engine forward and does nothing else to it. -/
theorem uniform_reaches {lo hi v : Int} {D x x' : Nat} (h : uniform lo hi D x = some (v, x')) :
    EngineReaches x x' := by
  obtain ⟨⟨u, y⟩, offset, eq⟩ := Option.map_eq_some_iff.1 h
  cases eq
  exact uniformOffset_reaches offset

/-- A legal engine word fits in `RNG`. -/
theorem legalWord.toNat_ofNat {x : Nat} (h : legalWord x) : (BitVec.ofNat 32 x).toNat = x := by
  obtain ⟨-, hi⟩ := h
  rw [BitVec.toNat_ofNat, Nat.mod_eq_of_lt (by omega)]

/-- R171: every seed gives a legal engine word. -/
theorem seedEngine_legal (seed : Nat) : legalWord (seedEngine seed) := by
  have bound : seed % engineModulus < 2147483647 := Nat.mod_lt _ (by decide)
  unfold seedEngine
  split
  · exact ⟨by decide, by decide⟩
  · exact ⟨by omega, by omega⟩

/-! ### How many cells a walk has -/

theorem stepsBetween_length (a b : Int) : (stepsBetween a b).length = (b - a).natAbs + 1 := by
  simp [stepsBetween]

theorem walkPoints_length (step : WalkPoint → WalkPoint) (n : Nat) (p : WalkPoint) :
    (walkPoints step n p).length = n + 1 := by
  induction n generalizing p with
  | zero => rfl
  | succ n ih => simp [walkPoints, ih]

theorem walkForward_length (sx sy ex ey : Int) :
    (walkForward sx sy ex ey).length = walkLength sx sy ex ey + 1 := by
  simp [walkForward, cellsOf, walkPoints_length]

/-- The number of steps does not depend on the direction. -/
theorem walkLength_comm (sx sy ex ey : Int) : walkLength ex ey sx sy = walkLength sx sy ex ey := by
  unfold walkLength
  omega

/-- R192: a walk has one cell more than it has steps, in each of the cases of R191. -/
theorem walkCells_length (sx sy ex ey : Int) :
    (walkCells sx sy ex ey).length = walkLength sx sy ex ey + 1 := by
  unfold walkCells
  split_ifs with same row column back
  · simp [walkLength, same]
  · simp [walkLength, row, stepsBetween_length]
  · simp [walkLength, column, stepsBetween_length]
  · rw [List.length_reverse, walkForward_length, walkLength_comm]
  · exact walkForward_length sx sy ex ey

/-- R195: the cell index of a legal coordinate fits in 32 signed bits. -/
theorem coordinateLegal_iff (v : Int) :
    coordinateLegal v = true ↔ -2 ^ 31 ≤ cellIndex v ∧ cellIndex v ≤ 2 ^ 31 - 1 := by
  simp only [coordinateLegal, Bool.and_eq_true, decide_eq_true_eq]

/-- R29: a walk between legal coordinates fits the queue. -/
theorem walkQueue_fits {sx sy ex ey : Int} {q : List Cell} (h : walkQueue sx sy ex ey = .ok q) :
    q.length ≤ 2 ^ 33 - 1 := by
  unfold walkQueue at h
  split at h
  next legal =>
    cases h
    simp only [Bool.and_eq_true, coordinateLegal_iff] at legal
    obtain ⟨⟨⟨hsx, hsy⟩, hex⟩, hey⟩ := legal
    rw [List.length_map, walkCells_length, walkLength]
    omega
  · cases h

/-- R196: so does the part of it inside the grid. -/
theorem walkQueue_filter_fits {sx sy ex ey : Int} {keep : Cell → Bool} {q : List Cell}
    (h : (walkQueue sx sy ex ey).map (List.filter keep) = .ok q) : q.length ≤ 2 ^ 33 - 1 := by
  cases walk : walkQueue sx sy ex ey with
  | error st => simp [walk, Except.map] at h
  | ok all =>
    rw [walk] at h
    cases h
    exact (List.length_filter_le keep all).trans (walkQueue_fits walk)

/-! ### The ways a command can end -/

/-- What the command `i` did from `s` to `t`: each constructor is one way a command can end, with what
it may write (R20, column *written by*) and what it leaves of everything else. -/
inductive CommandEffect (i : Instr) (s t : State) : Prop where
  /-- It wrote `rd`. -/
  | wrote {rd : Reg} {v : Word} {st : Status} (dest : destOf i = some rd) (ended : Wrote s t rd v st)
  /-- It wrote nothing: a fault (R231), or the end of a walk (R234). -/
  | answered {st : Status} (ended : Raised s t st)
  /-- R171: it seeded the engine. -/
  | seeded {w : Word32} (writes : writesRng i = true) (legal : legalWord w.toNat)
      (ended : Ended s t .ok 0 none w (s.gridW, s.gridH) s.wq)
  /-- R173, R176, R177: it moved a seeded engine on and wrote `rd`. -/
  | drew {rd : Reg} {v : Word} {x : Nat} (writes : writesRng i = true) (dest : destOf i = some rd)
      (running : s.rng ≠ 0) (reached : EngineReaches s.rng.toNat x)
      (ended : Drew s t rd v (BitVec.ofNat 32 x))
  /-- R194: it set the grid bound. -/
  | bounded {grid : Word32 × Word32} (writes : writesGrid i = true)
      (ended : Ended s t .ok 0 none s.rng grid s.wq)
  /-- R195, R196: it queued a walk that fits. -/
  | queued {q : List Cell} (writes : writesWq i = true) (fits : q.length ≤ 2 ^ 33 - 1)
      (ended : Queued s t q)
  /-- R197: it took the first cell of the queue into `rd`. -/
  | popped {rd : Reg} {v : Word} {c : Cell} {rest : List Cell} (writes : writesWq i = true)
      (dest : destOf i = some rd) (queue : s.wq = c :: rest)
      (ended : Ended s t .ok v (some (rd, v)) s.rng (s.gridW, s.gridH) rest)

section effects
variable {i : Instr} {s t : State} {rd : Reg}

theorem CommandEffect.of_deliver {v : Word} {st : Status} (dest : destOf i = some rd)
    (h : (.next (s.deliver rd v st) : Result) = .next t) : CommandEffect i s t := by
  cases h
  exact .wrote dest (deliver_wrote s rd v st)

theorem CommandEffect.of_deliverOrRaise {r : Except Status Int} (dest : destOf i = some rd)
    (h : (.next (s.deliverOrRaise rd r) : Result) = .next t) : CommandEffect i s t := by
  cases h
  obtain ⟨v, -, wrote⟩ | ⟨st, -, raised⟩ := deliverOrRaise_cases s rd r
  · exact .wrote dest wrote
  · exact .answered raised

theorem CommandEffect.of_deliverPower {r : Except Status (Int × Bool)} (dest : destOf i = some rd)
    (h : (.next (s.deliverPower rd r) : Result) = .next t) : CommandEffect i s t := by
  cases h
  obtain ⟨p, -, wrote⟩ | ⟨st, -, raised⟩ := deliverPower_cases s rd r
  · exact .wrote dest wrote
  · exact .answered raised

theorem CommandEffect.of_queueOrRaise {r : Except Status (List Cell)} (writes : writesWq i = true)
    (fits : ∀ q, r = .ok q → q.length ≤ 2 ^ 33 - 1)
    (h : (.next (s.queueOrRaise r) : Result) = .next t) : CommandEffect i s t := by
  cases h
  obtain ⟨q, eq, queued⟩ | ⟨st, -, raised⟩ := queueOrRaise_cases s r
  · exact .queued writes (fits q eq) queued
  · exact .answered raised

theorem CommandEffect.of_sampleOrRaise {lo hi : Int} {D : Nat} (writes : writesRng i = true)
    (dest : destOf i = some rd) (h : s.sampleOrRaise rd lo hi D = .next t) : CommandEffect i s t := by
  obtain ⟨-, eq⟩ | ⟨-, -, eq⟩ | ⟨running, -, v, x, draw, eq⟩ | ⟨-, -, -, eq⟩ :=
    sampleOrRaise_cases s rd lo hi D <;> rw [eq] at h <;> cases h
  · exact .answered (raise_raised s .precondition)
  · exact .answered (raise_raised s .invalidRange)
  · exact .drew writes dest running (uniform_reaches draw) (setRng_deliver_drew s rd _ _)

theorem execSeed_effect {rs1 : Reg} (h : execSeed rs1 s = .next t) :
    CommandEffect (.seed rs1) s t := by
  cases h
  have legal := seedEngine_legal (s.xU32 rs1).toNat
  exact .seeded rfl (legal.toNat_ofNat.symm ▸ legal) (complete_ended (fun _ => rfl) rfl rfl rfl rfl)

theorem execRandu32_effect (h : execRandu32 rd s = .next t) : CommandEffect (.randu32 rd) s t := by
  unfold execRandu32 at h
  split at h
  · cases h
    exact .answered (raise_raised s .precondition)
  next running =>
    cases h
    exact .drew rfl rfl running (.next _) (setRng_deliver_drew s rd _ _)

theorem execSetgrid_effect {rs1 rs2 : Reg} (h : execSetgrid rs1 rs2 s = .next t) :
    CommandEffect (.setgrid rs1 rs2) s t := by
  cases h
  exact .bounded rfl (complete_ended (fun _ => rfl) rfl rfl rfl rfl)

theorem execWnext_effect (h : execWnext rd s = .next t) : CommandEffect (.wnext rd) s t := by
  unfold execWnext at h
  split at h
  · cases h
    exact .answered (raise_raised s .walkEnd)
  next c rest queue =>
    cases h
    exact .popped rfl rfl queue (deliver_ended rd _ .ok (fun _ => rfl) rfl rfl rfl rfl)

end effects

/-- Every command that has a next state ended in one of the ways of `CommandEffect`. -/
theorem exec_effect {i : Instr} {s t : State} (h : exec i s = .next t) : CommandEffect i s t := by
  cases i with
  | ldi | mov | fromint | toint | add | sub | mul | floor | ceil | round | abs | shli | shri
  | samesign | cmp | exp | cos | sin | torad | rngget | rdfsr => exact .of_deliver rfl h
  | fromfrac | div | mod | erem | sqrt | atan2 => exact .of_deliverOrRaise rfl h
  | pow => exact .of_deliverPower rfl h
  | seed => exact execSeed_effect h
  | randu32 => exact execRandu32_effect h
  | randi32 | randi64 => exact .of_sampleOrRaise rfl rfl h
  | setgrid => exact execSetgrid_effect h
  | walk => exact .of_queueOrRaise rfl (fun _ => walkQueue_fits) h
  | walkb => exact .of_queueOrRaise rfl (fun _ => walkQueue_filter_fits) h
  | wnext => exact execWnext_effect h

/-! ### Which commands write which part of the state (R20) -/

section ended
variable {s t : State} {st : Status} {d v : Word} {rng : Word32} {grid : Word32 × Word32}
  {wq : List Cell}

/-- A command that wrote no register but its `rd` has kept every other. -/
theorem Ended.kept_of_dest {i : Instr} {rd r : Reg} (h : Ended s t st d (some (rd, v)) rng grid wq)
    (dest : destOf i = some rd) (other : destOf i ≠ some r) : t.reg r = s.reg r :=
  h.kept r fun w eq => other (by cases eq; exact dest)

/-- A command that wrote no register has kept all. -/
theorem Ended.kept_of_none (h : Ended s t st d none rng grid wq) (r : Reg) : t.reg r = s.reg r :=
  h.kept r fun _ => nofun

end ended

section kept
variable {i : Instr} {s t : State}

/-- R27: `RNG`. -/
theorem CommandEffect.rng_kept (h : CommandEffect i s t) (silent : writesRng i = false) :
    t.rng = s.rng := by
  cases h with
  | seeded writes | drew writes => exact absurd writes (by simp [silent])
  | wrote _ ended | answered ended | bounded _ ended | queued _ _ ended | popped _ _ _ ended =>
    exact ended.rng

/-- R28: `GRID_W` and `GRID_H`. -/
theorem CommandEffect.grid_kept (h : CommandEffect i s t) (silent : writesGrid i = false) :
    t.gridW = s.gridW ∧ t.gridH = s.gridH := by
  cases h with
  | bounded writes => exact absurd writes (by simp [silent])
  | wrote _ ended | answered ended | seeded _ _ ended | drew _ _ _ _ ended | queued _ _ ended
  | popped _ _ _ ended => exact Prod.mk.inj ended.grid

/-- R29: `WQ`. -/
theorem CommandEffect.wq_kept (h : CommandEffect i s t) (silent : writesWq i = false) :
    t.wq = s.wq := by
  cases h with
  | queued writes | popped writes => exact absurd writes (by simp [silent])
  | wrote _ ended | answered ended | seeded _ _ ended | drew _ _ _ _ ended | bounded _ ended =>
    exact ended.wq

/-- R23: the value registers. -/
theorem CommandEffect.reg_kept (h : CommandEffect i s t) {r : Reg} (other : destOf i ≠ some r) :
    t.reg r = s.reg r := by
  cases h with
  | wrote dest ended | drew _ dest _ _ ended | popped _ dest _ ended =>
    exact ended.kept_of_dest dest other
  | answered ended | seeded _ _ ended | bounded _ ended | queued _ _ ended =>
    exact ended.kept_of_none r

end kept

/-- Settles O17, part by part from the ways a command can end. -/
theorem onlyTheNamedCommandsWrite : Obligations.OnlyTheNamedCommandsWrite := by
  intro i s t h
  have effect := exec_effect h
  exact ⟨effect.rng_kept, effect.grid_kept, effect.wq_kept, fun _ => effect.reg_kept⟩

/-! ### What every step keeps -/

/-- R26: no status sets bit 0 or bit 7 of `FSR`, so a command keeps the invariant if the engine word and
the queue it leaves do. -/
theorem Ended.inv {s t : State} {st : Status} {d : Word} {write : Option (Reg × Word)} {rng : Word32}
    {grid : Word32 × Word32} {wq : List Cell} (h : Ended s t st d write rng grid wq) (inv : s.Inv)
    (legal : rng.toNat ≤ 2147483646) (fits : wq.length ≤ 2 ^ 33 - 1) : t.Inv where
  rng := by rwa [h.rng]
  fsr0 := by
    rw [h.fsr 0 (by decide), inv.fsr0]
    rfl
  fsr7 := by
    rw [h.fsr 7 (by decide), inv.fsr7]
    rfl
  wq := by rwa [h.wq]
  cfg := by rw [h.cfg, inv.cfg]

/-- R27: an engine word of the invariant other than 0 is one of a seeded generator. -/
theorem State.Inv.legalWord {s : State} (inv : s.Inv) (running : s.rng ≠ 0) :
    legalWord s.rng.toNat :=
  ⟨Nat.pos_of_ne_zero fun zero => running (BitVec.eq_of_toNat_eq zero), inv.rng⟩

theorem CommandEffect.inv {i : Instr} {s t : State} (h : CommandEffect i s t) (inv : s.Inv) :
    t.Inv := by
  cases h with
  | wrote _ ended | answered ended | bounded _ ended => exact ended.inv inv inv.rng inv.wq
  | seeded _ legal ended => exact ended.inv inv legal.2 inv.wq
  | drew _ _ running reached ended =>
    have legal := reached.legal (inv.legalWord running)
    exact ended.inv inv (legal.toNat_ofNat.symm ▸ legal.2) inv.wq
  | queued _ fits ended => exact ended.inv inv inv.rng fits
  | popped _ _ queue ended =>
    have fits := inv.wq
    rw [queue, List.length_cons] at fits
    exact ended.inv inv inv.rng (by omega)

/-- R75: a packet is a command that runs, or is answered as none. -/
theorem accept_cases {p : Packet} {s t : State} (h : accept p s = .next t) :
    (∃ i, decode p = .ok i ∧ exec i s = .next t) ∨ Raised s t .illegalCommand := by
  unfold accept at h
  split at h
  next i decoded => exact .inl ⟨i, decoded, h⟩
  · cases h
    exact .inr (raise_raised s .illegalCommand)

theorem accept_inv {p : Packet} {s t : State} (inv : s.Inv) (h : accept p s = .next t) : t.Inv := by
  obtain ⟨i, -, run⟩ | illegal := accept_cases h
  · exact (exec_effect run).inv inv
  · exact illegal.inv inv inv.rng inv.wq

theorem meet_inv {e : HostEvent} {s t : State} (inv : s.Inv) (h : meet e s = .next t) : t.Inv := by
  cases e with
  | command p => exact accept_inv inv h
  | reset | resetDuring =>
    cases h
    exact s.assertReset_atReset.inv inv.cfg

/-- The invariant does not speak of what the host still does. -/
theorem State.Inv.setHost {s : State} (inv : s.Inv) (events : List HostEvent) :
    State.Inv { s with host := events } :=
  ⟨inv.rng, inv.fsr0, inv.fsr7, inv.wq, inv.cfg⟩

/-- Settles O12, by the events a step can meet and the ways a command can end. -/
theorem stepKeepsTheInvariant : Obligations.StepKeepsTheInvariant := by
  intro s t inv h
  cases host : s.host with
  | nil =>
    rw [step_of_idle host] at h
    cases h
    exact inv
  | cons e rest =>
    rw [step_of_host host] at h
    exact meet_inv (inv.setHost rest) h

end Sys2Proof.Machine

/-! The transport form of packets and responses, for the statements of `20_memory.md`. -/

namespace Sys2Proof.Machine

/-! ### A packet as twelve bytes -/

/-- R70: a packet is 32 bits of command word and 64 of payload. -/
theorem packetBits_lt (p : Packet) : packetBits p < 2 ^ (8 * 12) := by
  have cw := p.cw.isLt
  have payload := p.payload.isLt
  unfold packetBits
  omega

/-- R70: a packet is read back from its 96 bits. -/
@[simp] theorem packetOfBits_packetBits (p : Packet) : packetOfBits (packetBits p) = p := by
  have low : BitVec.ofNat 32 (packetBits p) = p.cw :=
    BitVec.eq_of_toNat_eq <| by
      rw [BitVec.toNat_ofNat, packetBits, Nat.add_mul_mod_self_left, BitVec.toNat_mod_cancel]
  have high : packetBits p / 2 ^ 32 = p.payload.toNat := by
    rw [packetBits, Nat.add_mul_div_left _ _ (Nat.two_pow_pos 32),
      Nat.div_eq_of_lt p.cw.isLt, Nat.zero_add]
  rw [packetOfBits, low, high, BitVec.ofNat_toNat, BitVec.setWidth_eq]

@[simp] theorem packetBytes_length (p : Packet) : (packetBytes p).length = 12 :=
  littleEndian_length 12 _

/-- R53: the twelve bytes of a packet carry all its 96 bits. -/
theorem ofLittleEndian_packetBytes (p : Packet) : ofLittleEndian (packetBytes p) = packetBits p := by
  rw [packetBytes, ofLittleEndian_littleEndian, Nat.mod_eq_of_lt (packetBits_lt p)]

/-- R53: from the bytes of a packet the decoder reads the packet. -/
@[simp] theorem decodeBytes_packetBytes (p : Packet) : decodeBytes (packetBytes p) = decode p := by
  rw [decodeBytes, if_pos (packetBytes_length p), ofLittleEndian_packetBytes,
    packetOfBits_packetBits]

/-! ### A response as nine bytes -/

/-- The bits of a pattern from `start` up, taken through the number it stands for. -/
theorem ofNat_div_two_pow {n : Nat} (x : BitVec n) (start len : Nat) :
    BitVec.ofNat len (x.toNat / 2 ^ start) = x.extractLsb' start len :=
  BitVec.eq_of_toNat_eq <| by
    rw [BitVec.toNat_ofNat, BitVec.extractLsb'_toNat, Nat.shiftRight_eq_div_pow]

/-- The 72 bits that nine bytes carry: the 68 of the response under the free ones (log 12). -/
def paddedBits (r : Response) : BitVec (4 + 68) :=
  Cfg.responsePadding (responseBits r) ++ responseBits r

theorem responseBytes_eq (r : Response) : responseBytes r = littleEndian 9 (paddedBits r).toNat := rfl

/-- R53, R80: the padding stands above the bits of the response. -/
theorem extractLsb'_paddedBits (r : Response) {start len : Nat} (h : start + len ≤ 68) :
    (paddedBits r).extractLsb' start len = (responseBits r).extractLsb' start len :=
  BitVec.extractLsb'_append_eq_of_add_le h

@[simp] theorem responseBytes_length (r : Response) : (responseBytes r).length = 9 :=
  littleEndian_length 9 _

theorem responseBytes_getElem? (r : Response) {k : Nat} (h : k < 9) :
    (responseBytes r)[k]? = some ((paddedBits r).extractLsb' (8 * k) 8) := by
  rw [responseBytes_eq, littleEndian_getElem? _ h, ofNat_div_two_pow]

/-- R53, R80: bytes 0 to 7 carry `DATA`. -/
theorem responseBytes_data (r : Response) {k : Nat} (h : k < 8) :
    (responseBytes r)[k]? = some (BitVec.ofNat 8 (r.data.toNat / 2 ^ (8 * k))) := by
  rw [responseBytes_getElem? r (by omega), extractLsb'_paddedBits r (by omega), responseBits,
    BitVec.extractLsb'_append_eq_of_add_le (by omega), ofNat_div_two_pow]

/-- R53, R80: the lower half of byte 8 carries `STATUS`. -/
theorem responseBytes_status (r : Response) :
    ∃ b, (responseBytes r)[8]? = some b ∧ b.extractLsb' 0 4 = statusCode r.status := by
  refine ⟨_, responseBytes_getElem? r (by omega), ?_⟩
  calc ((paddedBits r).extractLsb' 64 8).extractLsb' 0 4
      _ = (paddedBits r).extractLsb' 64 4 := by
        ext i hi
        simp [show i < 8 by omega]
      _ = (responseBits r).extractLsb' 64 4 := extractLsb'_paddedBits r (by omega)
      _ = statusCode r.status := BitVec.extractLsb'_append_eq_left

/-- R53: the nine bytes of a response carry its 68 bits under the padding. -/
theorem ofLittleEndian_responseBytes (r : Response) :
    BitVec.ofNat 68 (ofLittleEndian (responseBytes r)) = responseBits r := by
  rw [responseBytes_eq, ofLittleEndian_littleEndian, Nat.mod_eq_of_lt (paddedBits r).isLt,
    BitVec.ofNat_toNat]
  exact BitVec.setWidth_append_eq_right

/-- R53: a response is read back from its bytes, whatever the padding. -/
@[simp] theorem responseOfBytes_responseBytes (r : Response) :
    responseOfBytes (responseBytes r) = some r := by
  rw [responseOfBytes, if_pos (responseBytes_length r), ofLittleEndian_responseBytes,
    responseOfBits_responseBits]

/-- Settles O7, by the facts about little-endian bytes for the numbers of a packet and a response. -/
theorem packetBytesCarryThePacket : Obligations.PacketBytesCarryThePacket :=
  ⟨fun p => ⟨packetBytes_length p, fun _ => littleEndian_getElem? (packetBits p),
      decodeBytes_packetBytes p⟩,
    fun r => ⟨responseBytes_length r, fun _ => responseBytes_data r, responseBytes_status r,
      responseOfBytes_responseBytes r⟩⟩

end Sys2Proof.Machine

/-! The command word of `30_encoding.md`: its fields, the rows of the opcode map, and the two directions
of the round trip between commands and packets. -/

namespace Sys2Proof.Machine

/-! ### The fields of a command word (R71, R73) -/

section fields
variable {cw : Word32} {lo : Nat} {r : Reg} (op : BitVec 8) (rd rs1 rs2 rs3 rs4 : Reg) (sh : Nat)

/-- A register number is read back from its four bits. -/
theorem regField_of_bits (bits : cw.extractLsb' lo 4 = regBits r) : regField lo cw = r := by
  rw [regField, bits]
  rfl

@[simp] theorem rdField_commandWord : rdField (commandWord op rd rs1 rs2 rs3 rs4) = rd :=
  regField_of_bits <| by
    rw [commandWord]
    iterate 5 rw [BitVec.extractLsb'_append_eq_of_le (by decide)]
    exact BitVec.extractLsb'_append_eq_right

@[simp] theorem rs1Field_commandWord : rs1Field (commandWord op rd rs1 rs2 rs3 rs4) = rs1 :=
  regField_of_bits <| by
    rw [commandWord]
    iterate 4 rw [BitVec.extractLsb'_append_eq_of_le (by decide)]
    exact BitVec.extractLsb'_append_eq_right

@[simp] theorem rs2Field_commandWord : rs2Field (commandWord op rd rs1 rs2 rs3 rs4) = rs2 :=
  regField_of_bits <| by
    rw [commandWord]
    iterate 3 rw [BitVec.extractLsb'_append_eq_of_le (by decide)]
    exact BitVec.extractLsb'_append_eq_right

@[simp] theorem rs3Field_commandWord : rs3Field (commandWord op rd rs1 rs2 rs3 rs4) = rs3 :=
  regField_of_bits <| by
    rw [commandWord]
    iterate 2 rw [BitVec.extractLsb'_append_eq_of_le (by decide)]
    exact BitVec.extractLsb'_append_eq_right

@[simp] theorem rs4Field_commandWord : rs4Field (commandWord op rd rs1 rs2 rs3 rs4) = rs4 :=
  regField_of_bits <| by
    rw [commandWord, BitVec.extractLsb'_append_eq_of_le (by decide)]
    exact BitVec.extractLsb'_append_eq_right

@[simp] theorem rdField_shiftWord : rdField (shiftWord op rd rs1 sh) = rd :=
  regField_of_bits <| by
    rw [shiftWord]
    iterate 3 rw [BitVec.extractLsb'_append_eq_of_le (by decide)]
    exact BitVec.extractLsb'_append_eq_right

@[simp] theorem rs1Field_shiftWord : rs1Field (shiftWord op rd rs1 sh) = rs1 :=
  regField_of_bits <| by
    rw [shiftWord]
    iterate 2 rw [BitVec.extractLsb'_append_eq_of_le (by decide)]
    exact BitVec.extractLsb'_append_eq_right

/-- R73 (b): the shift count, as far as six bits hold it. -/
theorem shField_shiftWord : shField (shiftWord op rd rs1 sh) = sh % 64 := by
  have bits : (shiftWord op rd rs1 sh).extractLsb' 10 6 = BitVec.ofNat 6 sh := by
    rw [shiftWord, BitVec.extractLsb'_append_eq_of_le (by decide)]
    exact BitVec.extractLsb'_append_eq_right
  rw [shField, bits]
  rfl

/-- R73 (b): a shift count that is read has six bits. -/
theorem shiftInRange_shField (cw : Word32) : shiftInRange (shField cw) = true :=
  decide_eq_true (cw.extractLsb' 10 6).isLt

/-- R71: a word is its seven parts one above the other. -/
theorem append_parts (cw : Word32) :
    cw.extractLsb' 24 8 ++ cw.extractLsb' 20 4 ++ cw.extractLsb' 16 4 ++ cw.extractLsb' 12 4 ++
      cw.extractLsb' 8 4 ++ cw.extractLsb' 4 4 ++ cw.extractLsb' 0 4 = cw := by
  iterate 6 rw [BitVec.extractLsb'_append_extractLsb'_eq_extractLsb' (by rfl)]
  exact BitVec.extractLsb'_eq_self

/-- R71, format `DSI`: the same with the shift count's six bits. -/
theorem append_shift_parts (cw : Word32) :
    cw.extractLsb' 24 8 ++ cw.extractLsb' 20 4 ++ cw.extractLsb' 16 4 ++ cw.extractLsb' 10 6 ++
      cw.extractLsb' 0 10 = cw := by
  iterate 4 rw [BitVec.extractLsb'_append_extractLsb'_eq_extractLsb' (by rfl)]
  exact BitVec.extractLsb'_eq_self

end fields

/-! ### Words that match a row (R72) -/

/-- A number at bits 31:24 is an opcode over 24 zeros. -/
theorem ofNat_mul_two_pow_24 (n : Nat) :
    BitVec.ofNat 32 (n * 2 ^ 24) = BitVec.ofNat 8 n ++ 0#24 := by
  apply BitVec.eq_of_toNat_eq
  rw [BitVec.toNat_append, BitVec.toNat_ofNat, BitVec.toNat_ofNat, BitVec.toNat_ofNat, Nat.zero_mod,
    Nat.or_zero, Nat.shiftLeft_eq]
  omega

theorem matchesRow_iff {cw : Word32} {n : Nat} {f : Format} :
    matchesRow cw (n, f) ↔ cw &&& formatMask f = BitVec.ofNat 8 n ++ 0#24 := by
  rw [matchesRow, ofNat_mul_two_pow_24]

section matching
variable {cw : Word32} {n : Nat} {f : Format}

/-- R72: the bits that the mask of the format compares are those of the opcode over 24 zeros. -/
theorem matchesRow.compared (h : matchesRow cw (n, f)) (start len : Nat)
    (mask : (formatMask f).extractLsb' start len = BitVec.allOnes len) :
    cw.extractLsb' start len = (BitVec.ofNat 8 n ++ 0#24).extractLsb' start len := by
  rw [← matchesRow_iff.1 h, BitVec.extractLsb'_and, mask, BitVec.and_allOnes]

/-- R72: the compared bits below the opcode are 0. -/
theorem matchesRow.reserved (h : matchesRow cw (n, f)) {start len : Nat}
    (low : start + len ≤ 24 := by decide)
    (mask : (formatMask f).extractLsb' start len = BitVec.allOnes len := by decide) :
    cw.extractLsb' start len = 0#len := by
  rw [h.compared start len mask, BitVec.extractLsb'_append_eq_of_add_le low, BitVec.extractLsb'_zero]

/-- R72: a register field that the format does not have is 0. -/
theorem matchesRow.regField (h : matchesRow cw (n, f)) {lo : Nat} (low : lo + 4 ≤ 24 := by decide)
    (mask : (formatMask f).extractLsb' lo 4 = BitVec.allOnes 4 := by decide) : regField lo cw = 0 :=
  regField_of_bits (h.reserved low mask)

/-- R72: every mask compares the whole opcode. -/
theorem matchesRow.opcode (h : matchesRow cw (n, f)) : cw.extractLsb' 24 8 = BitVec.ofNat 8 n := by
  rw [h.compared 24 8 (by cases f <;> rfl)]
  exact BitVec.extractLsb'_append_eq_left

theorem matchesRow.opField (h : matchesRow cw (n, f)) (small : n < 256) : opField cw = n := by
  rw [Sys2Proof.opField, h.opcode, BitVec.toNat_ofNat, Nat.mod_eq_of_lt small]

end matching

/-- R71, R72: the word with the fields that the format has taken from `cw` and every other bit 0. -/
def formatWord (f : Format) (op : BitVec 8) (cw : Word32) : Word32 :=
  match f with
  | .D => commandWord op (rdField cw) 0 0 0 0
  | .DS => commandWord op (rdField cw) (rs1Field cw) 0 0 0
  | .DSS => commandWord op (rdField cw) (rs1Field cw) (rs2Field cw) 0 0
  | .DSI => shiftWord op (rdField cw) (rs1Field cw) (shField cw)
  | .S => commandWord op 0 (rs1Field cw) 0 0 0
  | .SS => commandWord op 0 (rs1Field cw) (rs2Field cw) 0 0
  | .S4 => commandWord op 0 (rs1Field cw) (rs2Field cw) (rs3Field cw) (rs4Field cw)

/-- A word is the command word of its opcode and its register fields if its lowest four bits are 0. -/
theorem commandWord_of_fields {cw : Word32} {rd rs1 rs2 rs3 rs4 : Reg} (hd : rdField cw = rd)
    (h1 : rs1Field cw = rs1) (h2 : rs2Field cw = rs2) (h3 : rs3Field cw = rs3)
    (h4 : rs4Field cw = rs4) (low : cw.extractLsb' 0 4 = 0#4) :
    commandWord (cw.extractLsb' 24 8) rd rs1 rs2 rs3 rs4 = cw := by
  subst hd h1 h2 h3 h4
  have parts := append_parts cw
  rwa [low] at parts

theorem shiftWord_of_fields {cw : Word32} (low : cw.extractLsb' 0 10 = 0#10) :
    shiftWord (cw.extractLsb' 24 8) (rdField cw) (rs1Field cw) (shField cw) = cw := by
  have parts := append_shift_parts cw
  rw [low] at parts
  rwa [shiftWord, shField, BitVec.ofNat_toNat, BitVec.setWidth_eq]

/-- R72: a word that matches a row has nothing but the opcode and the fields of the format. -/
theorem matchesRow.formatWord_eq {cw : Word32} {n : Nat} {f : Format} (h : matchesRow cw (n, f)) :
    formatWord f (cw.extractLsb' 24 8) cw = cw := by
  cases f with
  | D => exact commandWord_of_fields rfl h.regField h.regField h.regField h.regField h.reserved
  | DS => exact commandWord_of_fields rfl rfl h.regField h.regField h.regField h.reserved
  | DSS => exact commandWord_of_fields rfl rfl rfl h.regField h.regField h.reserved
  | DSI => exact shiftWord_of_fields h.reserved
  | S => exact commandWord_of_fields h.regField rfl h.regField h.regField h.regField h.reserved
  | SS => exact commandWord_of_fields h.regField rfl rfl h.regField h.regField h.reserved
  | S4 => exact commandWord_of_fields h.regField rfl rfl rfl rfl h.reserved

/-! ### The opcode map and the decoder (R74, R75) -/

theorem opcodeMap_lt {row : Nat × Format} (h : row ∈ opcodeMap) : row.1 < 256 := by
  revert row; decide

/-- R74: each command stands in the opcode map. -/
theorem mem_opcodeMap (i : Instr) : ((opcodeOf i).toNat, formatOf i) ∈ opcodeMap := by
  cases i <;> simp [opcodeMap, opcodeOf, formatOf]

/-- What a row of the opcode map says of the command `i` that it names for a word and a payload. -/
structure NamesCommand (cw : Word32) (payload : Word) (f : Format) (i : Instr) : Prop where
  /-- R74, column *op*. -/
  opcode : opcodeOf i = cw.extractLsb' 24 8
  /-- R74, column *format*. -/
  format : formatOf i = f
  /-- R73 (b). -/
  wellFormed : i.wellFormed = true
  /-- R71: the operands are the fields of the word. -/
  word : encodeWord i = formatWord f (opcodeOf i) cw
  /-- R70: the immediate of `LDI` is the payload. -/
  immediate : ∀ rd imm, i = .ldi rd imm → payload = imm

theorem opcodeOf_of_opField {cw : Word32} {i : Instr} (h : opField cw = (opcodeOf i).toNat) :
    opcodeOf i = cw.extractLsb' 24 8 := (BitVec.eq_of_toNat_eq h).symm

theorem opcodeRow_names {cw : Word32} {payload : Word} {f : Format} {i : Instr}
    (h : opcodeRow cw payload = some (f, i)) : NamesCommand cw payload f i := by
  unfold opcodeRow at h
  split at h
  case h_37 => cases h
  case h_17 op | h_18 op =>
    cases h
    exact ⟨opcodeOf_of_opField op, rfl, shiftInRange_shField cw, rfl, nofun⟩
  case h_1 op =>
    cases h
    exact ⟨opcodeOf_of_opField op, rfl, rfl, rfl, by rintro _ _ ⟨⟩; rfl⟩
  all_goals
    next op =>
    cases h
    exact ⟨opcodeOf_of_opField op, rfl, rfl, rfl, nofun⟩

/-- R74: the row of an assigned opcode names a command, in the format of the map. -/
theorem opcodeRow_of_mem {cw : Word32} {row : Nat × Format} (payload : Word) (h : row ∈ opcodeMap)
    (op : opField cw = row.1) : ∃ i, opcodeRow cw payload = some (row.2, i) := by
  unfold opcodeRow
  rw [op]
  fin_cases h <;> exact ⟨_, rfl⟩

/-- R72, R75: a packet decodes to the command that the row of its opcode names, if its word matches
that row, and to no other. -/
theorem decode_eq_ok_iff {p : Packet} {i : Instr} : decode p = .ok i ↔
    ∃ f, opcodeRow p.cw p.payload = some (f, i) ∧ matchesRow p.cw (opField p.cw, f) := by
  unfold decode
  constructor
  · intro h
    split at h
    · cases h
    next f j row =>
      split at h
      next compared =>
        cases h
        exact ⟨f, row, compared⟩
      · cases h
  · rintro ⟨f, row, compared⟩
    simp only [row]
    exact if_pos compared

/-- What it means that a packet decodes: the row that names the command, and its word. -/
theorem names_of_decode {p : Packet} {i : Instr} (h : decode p = .ok i) :
    NamesCommand p.cw p.payload (formatOf i) i ∧
      matchesRow p.cw ((opcodeOf i).toNat, formatOf i) := by
  obtain ⟨f, row, compared⟩ := decode_eq_ok_iff.1 h
  have names := opcodeRow_names row
  rw [names.format, names.opcode]
  exact ⟨names, compared⟩

/-- Settles O2: the fields that a row names are all there is in a word that matches it. -/
theorem decodedPacketIsItsEncoding : Obligations.DecodedPacketIsItsEncoding := by
  intro p i h
  obtain ⟨names, compared⟩ := names_of_decode h
  refine ⟨names.wellFormed, ?_, names.immediate⟩
  rw [names.word, names.opcode]
  exact compared.formatWord_eq

/-- R72: a packet whose word matches a row of the map decodes to a command of that row. -/
theorem decode_of_matchesRow {p : Packet} {row : Nat × Format} (mem : row ∈ opcodeMap)
    (h : matchesRow p.cw row) : ∃ i, decode p = .ok i ∧ Encoded i row.1 row.2 := by
  have op : opField p.cw = row.1 := h.opField (opcodeMap_lt mem)
  obtain ⟨i, named⟩ := opcodeRow_of_mem p.payload mem op
  have names := opcodeRow_names named
  refine ⟨i, decode_eq_ok_iff.2 ⟨row.2, named, op ▸ h⟩, ?_, names.format⟩
  rw [names.opcode]
  exact op

/-- Settles O3: a decoded packet matches the row of its command, and a matching word decodes. -/
theorem commandWordsAreTheMaskedWords : Obligations.CommandWordsAreTheMaskedWords := by
  rintro cw payload ⟨n, f⟩ mem
  constructor
  · rintro ⟨i, decoded, rfl, rfl⟩
    exact (names_of_decode decoded).2
  · exact decode_of_matchesRow (p := ⟨cw, payload⟩) mem

/-- R75: a word that matches no row is no command. -/
theorem decode_of_no_row {p : Packet} (h : ∀ row ∈ opcodeMap, ¬ matchesRow p.cw row) :
    ∃ why, decode p = .error why := by
  cases decoded : decode p with
  | error why => exact ⟨why, rfl⟩
  | ok i => exact absurd (names_of_decode decoded).2 (h _ (mem_opcodeMap i))

/-! ### The encoder (R71) -/

/-- R72: the word of a command matches the row of its opcode and format. -/
theorem encodeWord_matchesRow (i : Instr) :
    matchesRow (encodeWord i) ((opcodeOf i).toNat, formatOf i) := by
  rw [matchesRow_iff, BitVec.ofNat_toNat, BitVec.setWidth_eq]
  cases i with
  | ldi | rngget | randu32 | wnext | rdfsr => exact Laws.maskedD ..
  | mov | fromint | toint | floor | ceil | round | abs | sqrt | exp | cos | sin | torad =>
    exact Laws.maskedDS ..
  | fromfrac | add | sub | mul | div | mod | erem | samesign | cmp | pow | atan2 | randi32
  | randi64 => exact Laws.maskedDSS ..
  | shli | shri => exact Laws.maskedDSI ..
  | seed => exact Laws.maskedS ..
  | setgrid => exact Laws.maskedSS ..
  | walk | walkb => exact Laws.maskedS4 ..

@[simp] theorem opField_encodeWord (i : Instr) : opField (encodeWord i) = (opcodeOf i).toNat :=
  (encodeWord_matchesRow i).opField (opcodeOf i).isLt

/-- R73 (b): the shift count of a well-formed command fits its field. -/
theorem shField_of_shiftInRange {op : BitVec 8} {rd rs1 : Reg} {sh : Nat}
    (h : shiftInRange sh = true) : shField (shiftWord op rd rs1 sh) = sh := by
  rw [shField_shiftWord, Nat.mod_eq_of_lt (of_decide_eq_true h)]

/-- R74: the row of the opcode of a well-formed command names that command, for its word and
payload. -/
theorem opcodeRow_encode {i : Instr} (h : i.wellFormed = true) :
    opcodeRow (encodeWord i) (encodePayload i) = some (formatOf i, i) := by
  unfold opcodeRow
  rw [opField_encodeWord]
  cases i with
  | shli | shri => simp [opcodeOf, formatOf, encodeWord, shField_of_shiftInRange h]
  | _ => simp [opcodeOf, formatOf, encodeWord, encodePayload]

/-- Settles O1: the row of its opcode names the command, and its word matches the row. -/
theorem decodeOfEncodedInstruction : Obligations.DecodeOfEncodedInstruction := by
  intro i wellFormed
  refine decode_eq_ok_iff.2 ⟨formatOf i, opcodeRow_encode wellFormed, ?_⟩
  have compared := encodeWord_matchesRow i
  rwa [← opField_encodeWord] at compared

/-- Settles O8: each word is evaluated. -/
theorem sampleWordsDecode : Obligations.SampleWordsDecode :=
  ⟨rfl, rfl, rfl, rfl, rfl, rfl, rfl, rfl⟩

/-! ### Accepting a packet (R70, R75) -/

theorem accept_of_decode {p : Packet} {i : Instr} (s : State) (h : decode p = .ok i) :
    accept p s = exec i s := by
  simp only [accept, h]

theorem accept_of_error {p : Packet} {why : DecodeError} (s : State) (h : decode p = .error why) :
    accept p s = .next s.answerIllegal := by
  simp only [accept, h]

/-- Settles O5, by the rule for a step that meets an event. -/
theorem stepRunsTheDecodedCommand : Obligations.StepRunsTheDecodedCommand := by
  intro s p i rest host decoded
  exact (step_of_host host).trans (accept_of_decode _ decoded)

/-- Settles O4: the packet is no command, and answering it raises. -/
theorem illegalWordIsAnswered : Obligations.IllegalWordIsAnswered := by
  intro s p noRow
  obtain ⟨why, illegal⟩ := decode_of_no_row noRow
  refine ⟨s.answerIllegal, ?_, raise_raised s .illegalCommand⟩
  exact (step_of_host (s.present_host p)).trans (accept_of_error s illegal)

/-- R70: only the row of opcode `0x01` reads the payload. -/
theorem opcodeRow_payload {cw : Word32} (a b : Word) (h : opField cw ≠ 0x01) :
    opcodeRow cw a = opcodeRow cw b := by
  unfold opcodeRow
  split
  case h_1 ldi => exact absurd ldi h
  all_goals rfl

/-- Settles O6: the decoder reads the payload through the row alone. -/
theorem payloadIsForLdiAlone : Obligations.PayloadIsForLdiAlone := by
  intro s cw a b h
  have decoded : decode { cw := cw, payload := a } = decode { cw := cw, payload := b } := by
    simp only [decode, opcodeRow_payload a b h]
  simp only [accept, decoded]

/-! ### One response for a packet (R80) -/

/-- R80: a command that has ended has one response more, and leaves the host's list alone. -/
theorem CommandEffect.responds {i : Instr} {s t : State} (h : CommandEffect i s t) :
    t.host = s.host ∧ ∃ r, t.responses = s.responses ++ [r] := by
  cases h with
  | wrote _ ended | answered ended | seeded _ _ ended | drew _ _ _ _ ended | bounded _ ended
  | queued _ _ ended | popped _ _ _ ended => exact ⟨ended.host, _, ended.responses⟩

theorem accept_responds {p : Packet} {s t : State} (h : accept p s = .next t) :
    t.host = s.host ∧ ∃ r, t.responses = s.responses ++ [r] := by
  obtain ⟨i, -, run⟩ | illegal := accept_cases h
  · exact (exec_effect run).responds
  · exact ⟨illegal.host, _, illegal.responses⟩

/-- Settles O11, by the events a step can meet. -/
theorem oneResponsePerAcceptedPacket : Obligations.OneResponsePerAcceptedPacket := by
  intro s t h
  refine ⟨fun idle => ?_, fun p rest host => ?_, fun e rest host isReset => ?_⟩
  · rw [step_of_idle idle] at h
    cases h
    rfl
  · rw [step_of_host host] at h
    exact accept_responds h
  · rw [step_of_host host, meet_of_reset _ isReset] at h
    cases h
    exact ⟨rfl, rfl⟩

end Sys2Proof.Machine

/-! What a response carries (`30_encoding.md` R80): the value written to `rd`, or 0. -/

namespace Sys2Proof.Machine

/-! ### The errors of the computations that may raise (R231) -/

/-- A computation that may raise raises nothing but fault statuses. -/
def FaultsOnly {α : Type} (r : Except Status α) : Prop :=
  ∀ st, r = .error st → isFaultStatus st = true

section faults
variable {α β : Type} {r r' : Except Status α}

theorem FaultsOnly.ok {a : α} : FaultsOnly (.ok a : Except Status α) := fun _ => nofun

theorem FaultsOnly.error {st : Status} (h : isFaultStatus st = true) :
    FaultsOnly (.error st : Except Status α) := by
  rintro _ ⟨⟩
  exact h

theorem FaultsOnly.ite {c : Prop} [Decidable c] (h : FaultsOnly r) (h' : FaultsOnly r') :
    FaultsOnly (if c then r else r') := by
  split
  · exact h
  · exact h'

theorem FaultsOnly.map {f : α → β} (h : FaultsOnly r) : FaultsOnly (r.map f) := by
  cases r with
  | ok a => exact .ok
  | error st => exact .error (h st rfl)

theorem fxFromFrac_faults (n d : Int) : FaultsOnly (fxFromFrac n d) := .ite (.error rfl) .ok

theorem fxDiv_faults (a b : Int) : FaultsOnly (fxDiv a b) := .ite (.error rfl) .ok

theorem fxMod_faults (a b : Int) : FaultsOnly (fxMod a b) := .ite (.error rfl) .ok

theorem fxErem_faults (a ub : Int) : FaultsOnly (fxErem a ub) :=
  .ite (.error rfl) (.ite (.error rfl) (.ite .ok .ok))

theorem fxSqrt_faults (a : Int) : FaultsOnly (fxSqrt a) := .ite (.error rfl) .ok

theorem fxPow_faults (x y : Int) : FaultsOnly (fxPow x y) :=
  .ite .ok (.ite .ok (.ite (.error rfl) (.ite (.ite (.error rfl) .ok) .ok)))

theorem fxAtan2_faults (c : Cfg) (y x : Int) : FaultsOnly (fxAtan2 c y x) :=
  .ite (.ite .ok (.ite .ok (.error rfl))) (.ite (.ite .ok (.ite .ok .ok)) (.ite .ok .ok))

theorem walkQueue_faults (sx sy ex ey : Int) : FaultsOnly (walkQueue sx sy ex ey) :=
  .ite .ok (.error rfl)

end faults

/-! ### Where `DATA` comes from (R80) -/

/-- R80: the three ways in which the command `i`, ending in `t`, comes by its status and `DATA`. -/
inductive DataSource (i : Instr) (t : State) : Status → Word → Prop where
  /-- The command completed and `DATA` is what `rd` holds. -/
  | written {rd : Reg} {st : Status} (dest : destOf i = some rd) (completed : st = .ok ∨ st = .saturated) :
      DataSource i t st (t.reg rd)
  /-- The command completed and has no `rd`. -/
  | noDest (dest : destOf i = none) : DataSource i t .ok 0
  /-- A fault (R231), or the end of a walk (R234). -/
  | stopped {st : Status} (stop : isFaultStatus st = true ∨ st = .walkEnd) : DataSource i t st 0

/-- The command `i` appended one response, with status and `DATA` as R80 says. -/
def Answered (i : Instr) (s t : State) : Prop :=
  ∃ st d, t.responses = s.responses ++ [{ status := st, data := d }] ∧ DataSource i t st d

section answered
variable {i : Instr} {s t : State} {rd : Reg} {st : Status} {v : Word} {rng : Word32}
  {grid : Word32 × Word32} {wq : List Cell}

theorem Answered.of_written (dest : destOf i = some rd) (completed : st = .ok ∨ st = .saturated)
    (h : Ended s t st v (some (rd, v)) rng grid wq) : Answered i s t := by
  obtain rfl := h.written rd v rfl
  exact ⟨st, _, h.responses, .written dest completed⟩

theorem Answered.of_noDest (dest : destOf i = none) (h : Ended s t .ok 0 none rng grid wq) :
    Answered i s t :=
  ⟨.ok, 0, h.responses, .noDest dest⟩

theorem Answered.of_raised (fault : isFaultStatus st = true) (h : Raised s t st) : Answered i s t :=
  ⟨st, 0, h.responses, .stopped (.inl fault)⟩

theorem Answered.of_deliver (dest : destOf i = some rd) (completed : st = .ok ∨ st = .saturated)
    (h : (.next (s.deliver rd v st) : Result) = .next t) : Answered i s t := by
  cases h
  exact .of_written dest completed (deliver_wrote s rd v st)

theorem Answered.of_deliverOrRaise {r : Except Status Int} (dest : destOf i = some rd)
    (faults : FaultsOnly r) (h : (.next (s.deliverOrRaise rd r) : Result) = .next t) :
    Answered i s t := by
  cases h
  obtain ⟨v, -, wrote⟩ | ⟨st, error, raised⟩ := deliverOrRaise_cases s rd r
  · exact .of_written dest (.inl rfl) wrote
  · exact .of_raised (faults st error) raised

/-- R233: a result that may be clamped is reported `OK` or `Saturated`. -/
theorem saturationStatus_cases (clamped : Bool) :
    saturationStatus clamped = .ok ∨ saturationStatus clamped = .saturated := by
  cases clamped
  · exact .inl rfl
  · exact .inr rfl

theorem Answered.of_deliverPower {r : Except Status (Int × Bool)} (dest : destOf i = some rd)
    (faults : FaultsOnly r) (h : (.next (s.deliverPower rd r) : Result) = .next t) :
    Answered i s t := by
  cases h
  obtain ⟨p, -, wrote⟩ | ⟨st, error, raised⟩ := deliverPower_cases s rd r
  · exact .of_written dest (saturationStatus_cases p.2) wrote
  · exact .of_raised (faults st error) raised

theorem Answered.of_queueOrRaise {r : Except Status (List Cell)} (dest : destOf i = none)
    (faults : FaultsOnly r) (h : (.next (s.queueOrRaise r) : Result) = .next t) :
    Answered i s t := by
  cases h
  obtain ⟨q, -, queued⟩ | ⟨st, error, raised⟩ := queueOrRaise_cases s r
  · exact .of_noDest dest queued
  · exact .of_raised (faults st error) raised

theorem Answered.of_sampleOrRaise {lo hi : Int} {D : Nat} (dest : destOf i = some rd)
    (h : s.sampleOrRaise rd lo hi D = .next t) : Answered i s t := by
  obtain ⟨-, eq⟩ | ⟨-, -, eq⟩ | ⟨-, -, v, x, -, eq⟩ | ⟨-, -, -, eq⟩ :=
    sampleOrRaise_cases s rd lo hi D <;> rw [eq] at h <;> cases h
  · exact .of_raised rfl (raise_raised s .precondition)
  · exact .of_raised rfl (raise_raised s .invalidRange)
  · exact .of_written dest (.inl rfl) (setRng_deliver_drew s rd _ _)

theorem execRandu32_answered (h : execRandu32 rd s = .next t) : Answered (.randu32 rd) s t := by
  unfold execRandu32 at h
  split at h
  · cases h
    exact .of_raised rfl (raise_raised s .precondition)
  · cases h
    exact .of_written rfl (.inl rfl) (setRng_deliver_drew s rd _ _)

theorem execWnext_answered (h : execWnext rd s = .next t) : Answered (.wnext rd) s t := by
  unfold execWnext at h
  split at h
  · cases h
    exact ⟨.walkEnd, 0, rfl, .stopped (.inr rfl)⟩
  · cases h
    exact .of_written rfl (.inl rfl) (deliver_ended rd _ .ok (fun _ => rfl) rfl rfl rfl rfl)

end answered

/-- R80: every command that has a next state has answered as R80 says. -/
theorem exec_answered {i : Instr} {s t : State} (h : exec i s = .next t) : Answered i s t := by
  cases i with
  | ldi | mov | fromint | toint | add | sub | mul | floor | ceil | round | abs | shli | shri
  | samesign | cmp | cos | sin | torad | rngget | rdfsr => exact .of_deliver rfl (.inl rfl) h
  | exp => exact .of_deliver rfl (saturationStatus_cases _) h
  | fromfrac => exact .of_deliverOrRaise rfl (fxFromFrac_faults _ _) h
  | div => exact .of_deliverOrRaise rfl (fxDiv_faults _ _) h
  | mod => exact .of_deliverOrRaise rfl (fxMod_faults _ _) h
  | erem => exact .of_deliverOrRaise rfl (fxErem_faults _ _) h
  | sqrt => exact .of_deliverOrRaise rfl (fxSqrt_faults _) h
  | atan2 => exact .of_deliverOrRaise rfl (fxAtan2_faults _ _ _) h
  | pow => exact .of_deliverPower rfl (fxPow_faults _ _) h
  | seed | setgrid =>
    cases h
    exact .of_noDest rfl (complete_ended (fun _ => rfl) rfl rfl rfl rfl)
  | randu32 => exact execRandu32_answered h
  | randi32 | randi64 => exact .of_sampleOrRaise rfl h
  | walk => exact .of_queueOrRaise rfl (walkQueue_faults _ _ _ _) h
  | walkb => exact .of_queueOrRaise rfl (walkQueue_faults _ _ _ _).map h
  | wnext => exact execWnext_answered h

/-- R231, R234: a status that completes a command is no fault and no end of a walk. -/
theorem not_stop_of_completed {st : Status} (completed : st = .ok ∨ st = .saturated) :
    ¬ (isFaultStatus st = true ∨ st = .walkEnd) := by
  obtain rfl | rfl := completed <;> simp [isFaultStatus]

/-- The response of a command is the one it appended, so `DATA` has the source it came from. -/
theorem dataSource_of_exec {i : Instr} {s t : State} {st : Status} {d : Word}
    (h : exec i s = .next t)
    (response : t.responses = s.responses ++ [{ status := st, data := d }]) : DataSource i t st d := by
  obtain ⟨st', d', appended, source⟩ := exec_answered h
  rw [response] at appended
  cases List.append_cancel_left appended
  exact source

/-- Settles O20, by the three sources of `DATA`. -/
theorem dataIsTheWrittenValue : Obligations.DataIsTheWrittenValue := by
  intro i s t st d h response
  cases dataSource_of_exec h response with
  | written dest completed =>
    exact ⟨fun rd same _ => congrArg t.reg (Option.some.inj (dest.symm.trans same)),
      fun none => (nomatch dest.symm.trans none),
      fun stop => absurd stop (not_stop_of_completed completed)⟩
  | noDest dest => exact ⟨fun rd same => (nomatch dest.symm.trans same), fun _ => rfl, fun _ => rfl⟩
  | stopped stop =>
    exact ⟨fun rd _ completed => absurd stop (not_stop_of_completed completed), fun _ => rfl,
      fun _ => rfl⟩

end Sys2Proof.Machine

/-! The move and conversion commands of `40_move_convert.md`: what each leaves in `rd`. -/

namespace Sys2Proof.Machine

/-! ### Commands that deliver a value, or raise -/

section endings
variable {i : Instr} {s : State} {rd : Reg}

/-- R80: a command that is one delivery completes with the value delivered. -/
theorem wrote_of_exec_deliver {v : Word} {st : Status} (run : exec i s = .next (s.deliver rd v st)) :
    ∃ t, exec i s = .next t ∧ Wrote s t rd v st :=
  ⟨_, run, deliver_wrote s rd v st⟩

/-- A computation that may raise, and has a value: the command completes with its pattern. -/
theorem wrote_of_exec_deliverOrRaise {r : Except Status Int} {v : Int}
    (run : exec i s = .next (s.deliverOrRaise rd r)) (value : r = .ok v) :
    ∃ t, exec i s = .next t ∧ Wrote s t rd (u64 v) .ok := by
  subst value
  exact ⟨_, run, deliver_wrote s rd (u64 v) .ok⟩

/-- R231: a computation that may raise, and does. -/
theorem raised_of_exec_deliverOrRaise {r : Except Status Int} {st : Status}
    (run : exec i s = .next (s.deliverOrRaise rd r)) (error : r = .error st) :
    ∃ t, exec i s = .next t ∧ Raised s t st := by
  subst error
  exact ⟨_, run, raise_raised s st⟩

end endings

/-! ### The conversion functions (R102 to R104) -/

/-- R102: the wrap is lost in the pattern that is stored. -/
@[simp] theorem u64_fxFromInt (n : Int) : u64 (fxFromInt n) = u64 (n * 4096) := u64_wrap64 _

/-- R103: the shift by 12 places is the floor quotient by 4096. -/
theorem fxToInt_eq (a : Int) : fxToInt a = a / 4096 := by
  norm_num [fxToInt, asr]

/-- R104: the quotient for a non-zero denominator. -/
theorem fxFromFrac_of_ne {n d : Int} (h : d ≠ 0) :
    fxFromFrac n d = .ok (wrap64 (Int.tdiv (n * 4096) d)) := if_neg h

/-- R104: there is none for a zero denominator. -/
@[simp] theorem fxFromFrac_zero (n : Int) : fxFromFrac n 0 = .error .divisionByZero := if_pos rfl

/-! ### The commands -/

/-- Settles O21: each is the delivery of a pattern that is at hand. -/
theorem loadAndCopyResults : Obligations.LoadAndCopyResults := by
  intro s rd rs1 imm
  exact ⟨⟨⟨rfl, rfl⟩, wrote_of_exec_deliver rfl⟩, ⟨rfl, rfl⟩, wrote_of_exec_deliver rfl⟩

/-- R102: `FROMINT` delivers the pattern of the exact multiple. -/
theorem exec_fromint (s : State) (rd rs1 : Reg) :
    exec (.fromint rd rs1) s = .next (s.deliver rd (u64 (s.x rs1 * 4096)) .ok) := by
  simp only [exec, execFromint, u64_fxFromInt]

/-- R103: `TOINT` delivers the floor quotient. -/
theorem exec_toint (s : State) (rd rs1 : Reg) :
    exec (.toint rd rs1) s = .next (s.deliver rd (u64 (s.x rs1 / 4096)) .ok) := by
  simp only [exec, execToint, fxToInt_eq]

/-- Settles O22, by what the two commands deliver. -/
theorem integerConversionResults : Obligations.IntegerConversionResults := by
  intro s rd rs1
  exact ⟨⟨⟨rfl, rfl⟩, wrote_of_exec_deliver (exec_fromint s rd rs1)⟩,
    ⟨rfl, rfl⟩, wrote_of_exec_deliver (exec_toint s rd rs1)⟩

/-- R104: `FROMFRAC` delivers the fraction of its sources, or raises. -/
theorem exec_fromfrac (s : State) (rd rs1 rs2 : Reg) :
    exec (.fromfrac rd rs1 rs2) s =
      .next (s.deliverOrRaise rd (fxFromFrac (s.x rs1) (s.x rs2))) := rfl

/-- Settles O24, by whether the denominator is zero. -/
theorem fractionResult : Obligations.FractionResult := by
  intro s rd rs1 rs2
  have run := exec_fromfrac s rd rs1 rs2
  refine ⟨⟨rfl, rfl⟩, fun nonzero => ?_, fun zero => ?_⟩
  · rw [← u64_wrap64]
    exact wrote_of_exec_deliverOrRaise run (fxFromFrac_of_ne nonzero)
  · exact raised_of_exec_deliverOrRaise run (by rw [zero, fxFromFrac_zero])

end Sys2Proof.Machine

/-! The scalar commands of `41_scalar_arith.md`: the pattern of what each function computes, and what each
command leaves in `rd`. -/

namespace Sys2Proof.Machine

/-! ### Patterns of integers (R10) -/

theorem u64_add (a b : Int) : u64 (a + b) = u64 a + u64 b := BitVec.ofInt_add a b

theorem u64_neg (a : Int) : u64 (-a) = -u64 a := BitVec.ofInt_neg

theorem u64_sub (a b : Int) : u64 (a - b) = u64 a - u64 b := by
  rw [Int.sub_eq_add_neg, u64_add, u64_neg, BitVec.sub_eq_add_neg]

theorem u64_mul (a b : Int) : u64 (a * b) = u64 a * u64 b := BitVec.ofInt_mul a b

theorem u64_natCast (n : Nat) : u64 n = BitVec.ofNat 64 n := BitVec.ofInt_natCast 64 n

theorem u64_two_pow (n : Nat) : u64 (2 ^ n) = BitVec.twoPow 64 n := by
  have natural : u64 (2 ^ n) = BitVec.ofNat 64 (2 ^ n) := by simpa using u64_natCast (2 ^ n)
  apply BitVec.eq_of_toNat_eq
  rw [natural, BitVec.toNat_ofNat, BitVec.toNat_twoPow]

theorem toNat_u64 (a : Int) : (u64 a).toNat = (a % 2 ^ 64).toNat := BitVec.toNat_ofInt a

/-- R10: `neg64` is the negation of the pattern. -/
theorem u64_neg64 (a : Int) : u64 (neg64 a) = -u64 a := by
  rw [neg64, u64_wrap64, u64_neg]

/-- R10: `tmod` is the remainder that goes with the truncating quotient. -/
theorem tmod_eq (a b : Int) : tmod a b = Int.tmod a b := (Int.tmod_def a b).symm

/-- R11: the pattern of what a register reads as is what the register holds. -/
@[simp] theorem u64_x (s : State) (r : Reg) : u64 (s.x r) = s.reg r := u64_s64 _

/-- R11: a register reads as negative when its sign bit is set. -/
theorem reg_getLsbD_63 (s : State) (r : Reg) : (s.reg r).getLsbD 63 = decide (s.x r < 0) := by
  rw [State.x, s64, ← BitVec.msb_eq_toInt, BitVec.msb_eq_getLsbD_last]

/-! ### Sum, difference and product (R111 to R113) -/

theorem u64_fxAdd (a b : Int) : u64 (fxAdd a b) = u64 a + u64 b := by
  rw [fxAdd, u64_wrap64, u64_add]

theorem u64_fxSub (a b : Int) : u64 (fxSub a b) = u64 a - u64 b := by
  rw [fxSub, u64_wrap64, u64_sub]

/-- Bits 75:12 of an integer's 128-bit pattern are the low 64 of its floor quotient by 4096. -/
theorem extractLsb'_ofInt_128 (p : Int) :
    (BitVec.ofInt 128 p).extractLsb' 12 64 = u64 (p / 4096) := by
  apply BitVec.eq_of_toNat_eq
  rw [BitVec.extractLsb'_toNat, BitVec.toNat_ofInt, toNat_u64, Nat.shiftRight_eq_div_pow]
  omega

/-- R113: the exact product, taken as that of the patterns sign-extended to 128 bits. -/
theorem u64_fxMul (v w : Word) : u64 (fxMul (s64 v) (s64 w)) =
    (v.signExtend 128 * w.signExtend 128).extractLsb' 12 64 := by
  have product : v.signExtend 128 * w.signExtend 128 = BitVec.ofInt 128 (s64 v * s64 w) :=
    (BitVec.ofInt_mul _ _).symm
  have shift : asr (s64 v * s64 w) 12 = s64 v * s64 w / 4096 := by norm_num [asr]
  rw [fxMul, u64_wrap64, product, extractLsb'_ofInt_128, shift]

theorem exec_add (s : State) (rd rs1 rs2 : Reg) :
    exec (.add rd rs1 rs2) s = .next (s.deliver rd (s.reg rs1 + s.reg rs2) .ok) := by
  simp only [exec, execAdd, u64_fxAdd, u64_x]

theorem exec_sub (s : State) (rd rs1 rs2 : Reg) :
    exec (.sub rd rs1 rs2) s = .next (s.deliver rd (s.reg rs1 - s.reg rs2) .ok) := by
  simp only [exec, execSub, u64_fxSub, u64_x]

/-- Settles O25: the wrap is lost in the patterns that the two commands deliver. -/
theorem addAndSubtractResults : Obligations.AddAndSubtractResults := by
  intro s rd rs1 rs2
  exact ⟨⟨⟨rfl, rfl⟩, wrote_of_exec_deliver (exec_add s rd rs1 rs2)⟩,
    ⟨rfl, rfl⟩, wrote_of_exec_deliver (exec_sub s rd rs1 rs2)⟩

theorem exec_mul (s : State) (rd rs1 rs2 : Reg) :
    exec (.mul rd rs1 rs2) s = .next (s.deliver rd
      (((s.reg rs1).signExtend 128 * (s.reg rs2).signExtend 128).extractLsb' 12 64) .ok) := by
  simp only [exec, execMul, State.x, u64_fxMul]

/-- Settles O26: `MUL` delivers the bits of the exact product. -/
theorem multiplyResult : Obligations.MultiplyResult := by
  intro s rd rs1 rs2
  exact ⟨⟨rfl, rfl⟩, wrote_of_exec_deliver (exec_mul s rd rs1 rs2)⟩

/-! ### Quotient and remainders (R114 to R116) -/

theorem u64_fxQuotient (a b : Int) : u64 (fxQuotient a b) = u64 (Int.tdiv (a * 4096) b) :=
  u64_wrap64 _

theorem fxDiv_of_ne {a b : Int} (h : b ≠ 0) : fxDiv a b = .ok (fxQuotient a b) := if_neg h

@[simp] theorem fxDiv_zero (a : Int) : fxDiv a 0 = .error .divisionByZero := if_pos rfl

theorem fxMod_of_ne {a b : Int} (h : b ≠ 0) : fxMod a b = .ok (Int.tmod a b) := by
  rw [fxMod, if_neg h, tmod_eq]

@[simp] theorem fxMod_zero (a : Int) : fxMod a 0 = .error .divisionByZero := if_pos rfl

/-- R116: both branches on the sign of the dividend give the non-negative residue. -/
theorem fxErem_of_pos {a ub : Int} (h : 0 < ub) : fxErem a ub = .ok (a % ub) := by
  rw [fxErem, if_neg (by omega), if_neg (by omega), tmod_eq, tmod_eq]
  split
  next nonneg => rw [Int.tmod_eq_emod_of_nonneg nonneg]
  next negative =>
    obtain ⟨n, rfl⟩ := Int.eq_negSucc_of_lt_zero (Int.not_le.1 negative)
    have succ : Int.negSucc n + 1 = -n := by omega
    rw [succ, Int.neg_tmod, Int.tmod_eq_emod_of_nonneg (Int.natCast_nonneg n),
      Int.negSucc_emod n h]
    congr 1
    omega

@[simp] theorem fxErem_zero (a : Int) : fxErem a 0 = .error .divisionByZero := if_pos rfl

theorem fxErem_of_neg {a ub : Int} (h : ub < 0) : fxErem a ub = .error .precondition := by
  rw [fxErem, if_neg (by omega), if_pos h]

theorem exec_div (s : State) (rd rs1 rs2 : Reg) : exec (.div rd rs1 rs2) s =
    .next (s.deliverOrRaise rd (fxDiv (s.x rs1) (s.x rs2))) := rfl

theorem exec_mod (s : State) (rd rs1 rs2 : Reg) : exec (.mod rd rs1 rs2) s =
    .next (s.deliverOrRaise rd (fxMod (s.x rs1) (s.x rs2))) := rfl

theorem exec_erem (s : State) (rd rs1 rs2 : Reg) : exec (.erem rd rs1 rs2) s =
    .next (s.deliverOrRaise rd (fxErem (s.x rs1) (s.x rs2))) := rfl

/-- Settles O27, by whether the divisor is zero. -/
theorem divideAndRemainderResults : Obligations.DivideAndRemainderResults := by
  intro s rd rs1 rs2
  have div := exec_div s rd rs1 rs2
  have mod := exec_mod s rd rs1 rs2
  refine ⟨⟨rfl, rfl⟩, ⟨rfl, rfl⟩, fun nonzero => ⟨?_, ?_⟩, fun zero => ⟨?_, ?_⟩⟩
  · rw [← u64_fxQuotient]
    exact wrote_of_exec_deliverOrRaise div (fxDiv_of_ne nonzero)
  · exact wrote_of_exec_deliverOrRaise mod (fxMod_of_ne nonzero)
  · exact raised_of_exec_deliverOrRaise div (by rw [zero, fxDiv_zero])
  · exact raised_of_exec_deliverOrRaise mod (by rw [zero, fxMod_zero])

/-- Settles O28, by the sign of the bound. -/
theorem euclideanRemainderResult : Obligations.EuclideanRemainderResult := by
  intro s rd rs1 rs2
  have run := exec_erem s rd rs1 rs2
  refine ⟨⟨rfl, rfl⟩, fun pos => ?_, fun zero => ?_, fun neg => ?_⟩
  · exact wrote_of_exec_deliverOrRaise run (fxErem_of_pos pos)
  · exact raised_of_exec_deliverOrRaise run (by rw [zero, fxErem_zero])
  · exact raised_of_exec_deliverOrRaise run (fxErem_of_neg neg)

/-! ### Rounding to a multiple of 4096 (R117 to R119) -/

/-- R117: the mask clears the twelve fraction bits, which are the residue modulo 4096. -/
theorem u64_and_integerMask (a : Int) :
    u64 a &&& 0xFFFFFFFFFFFFF000#64 = u64 (4096 * (a / 4096)) := by
  have shifts : u64 a >>> 12 <<< 12 = u64 a &&& 0xFFFFFFFFFFFFF000#64 :=
    BitVec.shiftLeft_ushiftRight
  apply BitVec.eq_of_toNat_eq
  rw [← shifts, BitVec.toNat_shiftLeft, BitVec.toNat_ushiftRight, toNat_u64, toNat_u64,
    Nat.shiftRight_eq_div_pow, Nat.shiftLeft_eq]
  omega

theorem fxFloor_eq (a : Int) : fxFloor a = wrap64 (4096 * (a / 4096)) := by
  rw [fxFloor, u64_and_integerMask, wrap64]

theorem u64_fxFloor (a : Int) : u64 (fxFloor a) = u64 (4096 * (a / 4096)) := by
  rw [fxFloor_eq, u64_wrap64]

/-- R117: the floor looks at nothing but the pattern of its argument. -/
theorem fxFloor_wrap64 (a : Int) : fxFloor (wrap64 a) = fxFloor a := by
  rw [fxFloor, u64_wrap64, fxFloor]

/-- R118: the negations take the floor of the opposite to the ceiling, the most negative value
included. -/
theorem u64_fxCeil (a : Int) : u64 (fxCeil a) = u64 (4096 * -(-a / 4096)) := by
  rw [fxCeil, u64_neg64, neg64, fxFloor_wrap64, u64_fxFloor, Int.mul_neg, u64_neg]

/-- R119: bit 11 of the pattern says that the fraction is at least one half. -/
theorem u64_getLsbD_11 (a : Int) : (u64 a).getLsbD 11 = true ↔ 2048 ≤ a % 4096 := by
  rw [BitVec.getLsbD, toNat_u64, Nat.testBit_eq_decide_div_mod_eq, decide_eq_true_iff]
  omega

/-- R119: the nearest multiple is the ceiling from one half on and the floor below. -/
theorem u64_fxRound (a : Int) : u64 (fxRound a) = u64 (4096 * ((a + 2048) / 4096)) := by
  rw [fxRound]
  split
  next half =>
    have up : (a + 2048) / 4096 = -(-a / 4096) := by
      have := (u64_getLsbD_11 a).1 half
      omega
    rw [u64_fxCeil, up]
  next half =>
    have down : (a + 2048) / 4096 = a / 4096 := by
      have := mt (u64_getLsbD_11 a).2 half
      omega
    rw [u64_fxFloor, down]

theorem exec_floor (s : State) (rd rs1 : Reg) : exec (.floor rd rs1) s =
    .next (s.deliver rd (u64 (4096 * (s.x rs1 / 4096))) .ok) := by
  simp only [exec, execFloor, u64_fxFloor]

theorem exec_ceil (s : State) (rd rs1 : Reg) : exec (.ceil rd rs1) s =
    .next (s.deliver rd (u64 (4096 * -(-(s.x rs1) / 4096))) .ok) := by
  simp only [exec, execCeil, u64_fxCeil]

theorem exec_round (s : State) (rd rs1 : Reg) : exec (.round rd rs1) s =
    .next (s.deliver rd (u64 (4096 * ((s.x rs1 + 2048) / 4096))) .ok) := by
  simp only [exec, execRound, u64_fxRound]

/-- Settles O29, by the multiple of 4096 that each command delivers. -/
theorem floorCeilRoundResults : Obligations.FloorCeilRoundResults := by
  intro s rd rs1
  exact ⟨⟨⟨rfl, rfl⟩, wrote_of_exec_deliver (exec_floor s rd rs1)⟩,
    ⟨⟨rfl, rfl⟩, wrote_of_exec_deliver (exec_ceil s rd rs1)⟩,
    ⟨rfl, rfl⟩, wrote_of_exec_deliver (exec_round s rd rs1)⟩

/-- R126, R102: no integer of 52 bits is wrapped. -/
theorem fxFromInt_of_bounds {n : Int} (lo : -2 ^ 51 ≤ n) (hi : n < 2 ^ 51) :
    fxFromInt n = n * 4096 :=
  s64_u64 (by omega) (by omega)

/-- R126: the conversion to an integer and back is the floor, of any integer. -/
theorem fxFromInt_fxToInt (a : Int) : fxFromInt (fxToInt a) = fxFloor a := by
  rw [fxFromInt, fxToInt_eq, fxFloor_eq, Int.mul_comm]

/-- Settles O23: the multiple of 4096 is not wrapped, or is the wrapped floor. -/
theorem integerRoundTrips : Obligations.IntegerRoundTrips := by
  refine ⟨fun n lo hi => ?_, fun a _ _ => fxFromInt_fxToInt a⟩
  rw [fxFromInt_of_bounds lo hi, fxToInt_eq, Int.mul_ediv_cancel n (by decide)]

/-! ### Absolute value and square root (R120, R121) -/

theorem u64_fxAbs (a : Int) : u64 (fxAbs a) = BitVec.ofNat 64 a.natAbs := by
  rw [fxAbs, ← u64_natCast]
  split
  next negative => rw [u64_neg64, ← u64_neg, Int.ofNat_natAbs_of_nonpos negative.le]
  next nonneg => rw [Int.natAbs_of_nonneg (Int.not_lt.1 nonneg)]

theorem exec_abs (s : State) (rd rs1 : Reg) : exec (.abs rd rs1) s =
    .next (s.deliver rd (BitVec.ofNat 64 (s.x rs1).natAbs) .ok) := by
  simp only [exec, execAbs, u64_fxAbs]

/-- Settles O30, by the sign of the source. -/
theorem absoluteValueResult : Obligations.AbsoluteValueResult := by
  intro s rd rs1
  exact ⟨⟨rfl, rfl⟩, wrote_of_exec_deliver (exec_abs s rd rs1)⟩

theorem u64_fxRoot (a : Int) : u64 (fxRoot a) = BitVec.ofNat 64 (isqrt a.toNat * 64) := by
  rw [fxRoot, ← u64_natCast, Nat.cast_mul]
  rfl

theorem fxSqrt_of_nonneg {a : Int} (h : 0 ≤ a) : fxSqrt a = .ok (fxRoot a) :=
  if_neg (Int.not_lt.2 h)

theorem fxSqrt_of_neg {a : Int} (h : a < 0) : fxSqrt a = .error .domainError := if_pos h

/-- R10 `isqrt`, of a non-negative integer. -/
theorem isqrt_toNat_spec {a : Int} (h : 0 ≤ a) :
    (isqrt a.toNat : Int) * isqrt a.toNat ≤ a ∧
      a < ((isqrt a.toNat : Int) + 1) * ((isqrt a.toNat : Int) + 1) := by
  lift a to Nat using h
  exact_mod_cast isqrt_spec a

theorem exec_sqrt (s : State) (rd rs1 : Reg) :
    exec (.sqrt rd rs1) s = .next (s.deliverOrRaise rd (fxSqrt (s.x rs1))) := rfl

/-- Settles O31, by the sign of the source and what `isqrt` is. -/
theorem squareRootResult : Obligations.SquareRootResult := by
  intro s rd rs1
  have run := exec_sqrt s rd rs1
  refine ⟨⟨rfl, rfl⟩, fun nonneg => ?_, fun negative => ?_⟩
  · obtain ⟨t, next, wrote⟩ := wrote_of_exec_deliverOrRaise run (fxSqrt_of_nonneg nonneg)
    rw [u64_fxRoot] at wrote
    exact ⟨t, isqrt (s.x rs1).toNat, next, wrote, isqrt_toNat_spec nonneg⟩
  · exact raised_of_exec_deliverOrRaise run (fxSqrt_of_neg negative)

/-! ### Shifts (R122, R123) -/

/-- R122: on patterns too, a shift to the left multiplies by a power of two. -/
theorem u64_fxShl (a : Int) (sh : Nat) : u64 (fxShl a sh) = u64 a <<< sh := by
  rw [fxShl, u64_wrap64, u64_mul, u64_two_pow, BitVec.shiftLeft_eq_mul_twoPow]

/-- R123: the floor quotient by a power of two is the arithmetic shift of the pattern. -/
theorem u64_fxShr (w : Word) (sh : Nat) : u64 (fxShr (s64 w) sh) = w.sshiftRight sh := by
  rw [BitVec.sshiftRight_eq, Int.shiftRight_eq_div_pow, Nat.cast_pow]
  rfl

theorem exec_shli (s : State) (rd rs1 : Reg) (sh : Nat) :
    exec (.shli rd rs1 sh) s = .next (s.deliver rd (s.reg rs1 <<< sh) .ok) := by
  simp only [exec, execShli, u64_fxShl, u64_x]

theorem exec_shri (s : State) (rd rs1 : Reg) (sh : Nat) :
    exec (.shri rd rs1 sh) s = .next (s.deliver rd ((s.reg rs1).sshiftRight sh) .ok) := by
  simp only [exec, execShri, State.x, u64_fxShr]

/-- Settles O32, by the shifted pattern that each command delivers. -/
theorem shiftResults : Obligations.ShiftResults := by
  intro s rd rs1 sh
  exact ⟨⟨⟨rfl, rfl⟩, wrote_of_exec_deliver (exec_shli s rd rs1 sh)⟩,
    ⟨rfl, rfl⟩, wrote_of_exec_deliver (exec_shri s rd rs1 sh)⟩

/-! ### Sign and order (R124, R125) -/

/-- R124: the sign bits agree when both sources are negative or neither is. -/
theorem u64_fxSameSign (s : State) (rs1 rs2 : Reg) :
    u64 (fxSameSign (s.x rs1) (s.x rs2)) = if (0 ≤ s.x rs1 ↔ 0 ≤ s.x rs2) then 1 else 0 := by
  have agree : (s.reg rs1).getLsbD 63 = (s.reg rs2).getLsbD 63 ↔ (0 ≤ s.x rs1 ↔ 0 ≤ s.x rs2) := by
    rw [reg_getLsbD_63, reg_getLsbD_63, decide_eq_decide]
    omega
  simp only [fxSameSign, u64_x, agree]
  split <;> rfl

/-- R125: by the three ways in which two integers can be ordered. -/
theorem fxCmp_eq_sign (a b : Int) : fxCmp a b = Int.sign (a - b) := by
  obtain less | rfl | greater := lt_trichotomy a b
  · rw [fxCmp, if_pos less, Int.sign_eq_neg_one_of_neg (by omega)]
  · rw [fxCmp, if_neg (lt_irrefl a), if_pos rfl, Int.sub_self, Int.sign_zero]
  · rw [fxCmp, if_neg (by omega), if_neg (by omega), Int.sign_eq_one_of_pos (by omega)]

theorem exec_samesign (s : State) (rd rs1 rs2 : Reg) : exec (.samesign rd rs1 rs2) s =
    .next (s.deliver rd (if (0 ≤ s.x rs1 ↔ 0 ≤ s.x rs2) then 1 else 0) .ok) := by
  simp only [exec, execSamesign, u64_fxSameSign]

theorem exec_cmp (s : State) (rd rs1 rs2 : Reg) : exec (.cmp rd rs1 rs2) s =
    .next (s.deliver rd (u64 (Int.sign (s.x rs1 - s.x rs2))) .ok) := by
  simp only [exec, execCmp, fxCmp_eq_sign]

/-- Settles O33, by the sign bits and by the order of the sources. -/
theorem signAndOrderResults : Obligations.SignAndOrderResults := by
  intro s rd rs1 rs2
  exact ⟨⟨⟨rfl, rfl⟩, wrote_of_exec_deliver (exec_samesign s rd rs1 rs2)⟩,
    ⟨rfl, rfl⟩, wrote_of_exec_deliver (exec_cmp s rd rs1 rs2)⟩

end Sys2Proof.Machine

/-! The random generator of `43_random.md`: what seeding, reading and drawing leave, and that the
generator stays seeded. -/

namespace Sys2Proof.Machine

/-! ### A seeded generator stays seeded (R170, R171) -/

theorem State.seeded_iff (s : State) : s.seeded ↔ legalWord s.rng.toNat := Iff.rfl

theorem Ended.seeded {s t : State} {st : Status} {d : Word} {write : Option (Reg × Word)} {rng : Word32}
    {grid : Word32 × Word32} {wq : List Cell} (h : Ended s t st d write rng grid wq)
    (legal : legalWord rng.toNat) : t.seeded := by
  rwa [State.seeded_iff, h.rng]

/-- R170, R171: a command leaves the engine word alone, seeds it, or moves it on from a legal word. -/
theorem CommandEffect.seeded_kept {i : Instr} {s t : State} (h : CommandEffect i s t)
    (seeded : s.seeded) : t.seeded := by
  cases h with
  | wrote _ ended | answered ended | bounded _ ended | queued _ _ ended | popped _ _ _ ended =>
    exact ended.seeded seeded
  | seeded _ legal ended => exact ended.seeded legal
  | drew _ _ _ reached ended =>
    have legal := reached.legal seeded
    exact ended.seeded (legal.toNat_ofNat.symm ▸ legal)

theorem accept_seeded {p : Packet} {s t : State} (seeded : s.seeded) (h : accept p s = .next t) :
    t.seeded := by
  obtain ⟨i, -, run⟩ | illegal := accept_cases h
  · exact (exec_effect run).seeded_kept seeded
  · exact illegal.seeded seeded

/-- What the host presents first, if it asserts no reset, is a packet. -/
theorem State.noReset.event {s : State} {e : HostEvent} {rest : List HostEvent} (h : s.noReset)
    (host : s.host = e :: rest) : ∃ p, e = .command p := by
  obtain ⟨notReset, notDuring⟩ := h e (by rw [host]; rfl)
  cases e with
  | command p => exact ⟨p, rfl⟩
  | reset => exact absurd rfl notReset
  | resetDuring p => exact absurd rfl (notDuring p)

/-- Settles O14, by the events that are no reset and the ways a command can end. -/
theorem seededGeneratorStaysSeeded : Obligations.SeededGeneratorStaysSeeded := by
  intro s t seeded noReset h
  cases host : s.host with
  | nil =>
    rw [step_of_idle host] at h
    cases h
    exact seeded
  | cons e rest =>
    obtain ⟨p, rfl⟩ := noReset.event host
    rw [step_of_host host] at h
    exact accept_seeded (s := { s with host := rest }) seeded h

/-! ### Seeding (R171) -/

/-- R13: a U32 operand is the register modulo `2^32`. -/
theorem State.toNat_xU32 (s : State) (r : Reg) : (s.xU32 r).toNat = (s.reg r).toNat % 2 ^ 32 := by
  rw [State.xU32, BitVec.extractLsb'_toNat, Nat.shiftRight_zero]

/-- R171: a legal engine word is its own seed. -/
theorem seedEngine_of_legal {x : Nat} (h : legalWord x) : seedEngine x = x := by
  obtain ⟨lo, hi⟩ := h
  have reduced : x % engineModulus = x := Nat.mod_eq_of_lt (Nat.lt_succ_of_le hi)
  rw [seedEngine, reduced, if_neg (by omega)]

/-- R171: what `SEED` does, in terms of its source modulo `2^32`. -/
theorem exec_seed_ended {s : State} {rs1 : Reg} {seed : Nat} (low : seed = (s.reg rs1).toNat % 2 ^ 32) :
    ∃ t, exec (.seed rs1) s = .next t ∧
      Ended s t .ok 0 none (BitVec.ofNat 32 (seedEngine seed)) (s.gridW, s.gridH) s.wq := by
  rw [low, ← s.toNat_xU32 rs1]
  exact ⟨_, rfl, complete_ended (fun _ => rfl) rfl rfl rfl rfl⟩

/-- Settles O46: `seedEngine` is the rule's reduction, and gives a legal word. -/
theorem seedResult : Obligations.SeedResult := by
  intro s rs1 seed low
  obtain ⟨t, run, ended⟩ := exec_seed_ended low
  have legal := seedEngine_legal seed
  exact ⟨⟨rfl, rfl⟩, t, run, ended, ended.seeded (legal.toNat_ofNat.symm ▸ legal)⟩

/-- Settles O48: the low half of the register is the word that was read, and it is its own seed. -/
theorem savedEngineWordIsRestored : Obligations.SavedEngineWordIsRestored := by
  intro s u rs1 seeded saved
  have low : s.rng.toNat = (u.reg rs1).toNat % 2 ^ 32 := by
    rw [saved, BitVec.toNat_ofNat]
    have := s.rng.isLt
    omega
  obtain ⟨t, run, ended⟩ := exec_seed_ended low
  refine ⟨t, run, ?_⟩
  rw [ended.rng, seedEngine_of_legal seeded, BitVec.ofNat_toNat, BitVec.setWidth_eq]

/-! ### Reading and stepping the engine (R172, R173) -/

theorem exec_rngget (s : State) (rd : Reg) :
    exec (.rngget rd) s = .next (s.deliver rd (BitVec.ofNat 64 s.rng.toNat) .ok) := by
  rw [BitVec.ofNat_toNat]
  rfl

/-- R173: unseeded, `RANDU32` raises. -/
theorem exec_randu32_of_unseeded {s : State} (rd : Reg) (unseeded : s.rng = 0) :
    exec (.randu32 rd) s = .next (s.raise .precondition) := if_pos unseeded

/-- R173: the engine's next word goes to `RNG` and to `rd`. -/
theorem exec_randu32_of_running {s : State} (rd : Reg) (running : s.rng ≠ 0) :
    exec (.randu32 rd) s =
      .next ((s.setRng (BitVec.ofNat 32 (engineNext s.rng.toNat))).deliver rd
        (BitVec.ofNat 64 (engineNext s.rng.toNat)) .ok) := if_neg running

/-- Settles O47: `RNGGET` is a delivery, and `RANDU32` draws or raises by whether the word is 0. -/
theorem engineReadAndDrawResults : Obligations.EngineReadAndDrawResults := by
  rintro s rd v rfl
  refine ⟨⟨⟨rfl, rfl⟩, wrote_of_exec_deliver (exec_rngget s rd)⟩, ⟨rfl, rfl⟩, fun running => ?_,
    fun unseeded => ?_⟩
  · exact ⟨_, exec_randu32_of_running rd running, setRng_deliver_drew s rd _ _⟩
  · exact ⟨_, exec_randu32_of_unseeded rd unseeded, raise_raised s .precondition⟩

/-! ### The two sampling commands (R176, R177) -/

theorem exec_randi32 (s : State) (rd rs1 rs2 : Reg) :
    exec (.randi32 rd rs1 rs2) s = s.sampleOrRaise rd (s.xI32 rs1) (s.xI32 rs2) 32 := rfl

theorem exec_randi64 (s : State) (rd rs1 rs2 : Reg) :
    exec (.randi64 rd rs1 rs2) s = s.sampleOrRaise rd (s.x rs1) (s.x rs2) 64 := rfl

section sampling
variable {i : Instr} {s t : State} {rd : Reg} {lo hi v : Int} {D r : Nat}

/-- R176, R177: unseeded, whatever the bounds. -/
theorem raised_of_exec_sample_unseeded (run : exec i s = s.sampleOrRaise rd lo hi D)
    (unseeded : s.rng = 0) : ∃ t, exec i s = .next t ∧ Raised s t .precondition :=
  ⟨_, run.trans (if_pos unseeded), raise_raised s .precondition⟩

/-- R176, R177: seeded, with `max < min`. -/
theorem raised_of_exec_sample_invalid (run : exec i s = s.sampleOrRaise rd lo hi D)
    (running : s.rng ≠ 0) (invalid : hi < lo) :
    ∃ t, exec i s = .next t ∧ Raised s t .invalidRange :=
  ⟨_, run.trans ((if_neg running).trans (if_pos invalid)), raise_raised s .invalidRange⟩

/-- R176, R177: the draw. -/
theorem drew_of_exec_sample (run : exec i s = s.sampleOrRaise rd lo hi D) (running : s.rng ≠ 0)
    (order : lo ≤ hi) (draw : uniform lo hi D s.rng.toNat = some (v, r)) :
    ∃ t, exec i s = .next t ∧ Drew s t rd (u64 v) (BitVec.ofNat 32 r) := by
  refine ⟨_, ?_, setRng_deliver_drew s rd (u64 v) (BitVec.ofNat 32 r)⟩
  rw [run, State.sampleOrRaise, if_neg running, if_neg (not_lt.2 order), draw]
  rfl

/-- A sampling command that completes with its bounds in order has drawn. -/
theorem draw_of_exec_sample (run : exec i s = s.sampleOrRaise rd lo hi D) (running : s.rng ≠ 0)
    (order : lo ≤ hi) (h : exec i s = .next t) :
    ∃ v r, uniform lo hi D s.rng.toNat = some (v, r) ∧ Drew s t rd (u64 v) (BitVec.ofNat 32 r) := by
  obtain ⟨unseeded, -⟩ | ⟨-, invalid, -⟩ | ⟨-, -, v, r, draw, eq⟩ | ⟨-, -, -, eq⟩ :=
    sampleOrRaise_cases s rd lo hi D
  · exact absurd unseeded running
  · exact absurd order (not_le.2 invalid)
  · cases (run.trans eq).symm.trans h
    exact ⟨v, r, draw, setRng_deliver_drew s rd _ _⟩
  · cases (run.trans eq).symm.trans h

end sampling

/-- Settles O49, by the faults in their order and the draw, for each of the two commands. -/
theorem uniformDrawResults : Obligations.UniformDrawResults := by
  intro s rd rs1 rs2
  have run32 := exec_randi32 s rd rs1 rs2
  have run64 := exec_randi64 s rd rs1 rs2
  refine ⟨⟨rfl, rfl⟩, ⟨rfl, rfl⟩, fun unseeded => ⟨?_, ?_⟩, ?_, ?_, ?_, ?_⟩
  · exact raised_of_exec_sample_unseeded run32 unseeded
  · exact raised_of_exec_sample_unseeded run64 unseeded
  · exact raised_of_exec_sample_invalid run32
  · exact raised_of_exec_sample_invalid run64
  · exact fun running order _ _ => drew_of_exec_sample run32 running order
  · exact fun running order _ _ => drew_of_exec_sample run64 running order

/-! ### Signed integers of a width -/

/-- R11, R13: the integers that `D` bits hold in two's complement. -/
def FitsSigned (D : Nat) (v : Int) : Prop := -2 ^ (D - 1) ≤ v ∧ v < 2 ^ (D - 1)

theorem fitsSigned_toInt {D : Nat} (w : BitVec D) : FitsSigned D w.toInt :=
  ⟨BitVec.le_toInt w, BitVec.toInt_lt⟩

theorem State.xI32_fits (s : State) (r : Reg) : FitsSigned 32 (s.xI32 r) := fitsSigned_toInt _

theorem State.x_fits (s : State) (r : Reg) : FitsSigned 64 (s.x r) := fitsSigned_toInt _

section width
variable {D : Nat} {lo hi v : Int}

theorem FitsSigned.toInt_ofInt (fits : FitsSigned D v) (pos : 0 < D) : (BitVec.ofInt D v).toInt = v :=
  BitVec.toInt_ofInt_eq_self pos fits.1 fits.2

theorem FitsSigned.between (low : FitsSigned D lo) (high : FitsSigned D hi) (above : lo ≤ v)
    (below : v ≤ hi) : FitsSigned D v :=
  ⟨low.1.trans above, below.trans_lt high.2⟩

/-- A value of at most 64 bits is read back from a register as it is. -/
theorem FitsSigned.s64_u64 (fits : FitsSigned D v) (narrow : D ≤ 64) : s64 (u64 v) = v := by
  have wide : (2 : Int) ^ (D - 1) ≤ 2 ^ 63 := pow_le_pow_right₀ (by decide) (by omega)
  obtain ⟨lower, upper⟩ := fits
  exact Machine.s64_u64 (by omega) (by omega)

theorem two_pow_eq_double (pos : 0 < D) : (2 : Int) ^ D = 2 * 2 ^ (D - 1) := by
  rw [← pow_succ', Nat.sub_add_cancel pos]

/-! ### The range of a draw (R175) -/

/-- R175: the range size is 0 for the full range, and else how many values the range has. -/
theorem rangeSize_cases (pos : 0 < D) (low : FitsSigned D lo) (high : FitsSigned D hi)
    (order : lo ≤ hi) :
    (hi - lo + 1 = 2 ^ D ∧ rangeSize lo hi D = 0) ∨ (rangeSize lo hi D : Int) = hi - lo + 1 := by
  have double := two_pow_eq_double pos
  obtain ⟨lower, -⟩ := low
  obtain ⟨-, upper⟩ := high
  unfold rangeSize
  by_cases full : hi - lo + 1 = 2 ^ D
  · exact .inl ⟨full, by rw [full, Int.emod_self, Int.toNat_zero]⟩
  · right
    rw [Int.emod_eq_of_lt (by omega) (by omega), Int.toNat_of_nonneg (by omega)]

/-- R175: the retry loop ends with an offset inside the range. -/
theorem drawInRange_lt {w rp fuel x u x' : Nat} (h : drawInRange w D rp fuel x = some (u, x')) :
    u < rp := by
  induction fuel generalizing x with
  | zero => cases h
  | succ fuel ih =>
    rw [drawInRange] at h
    split at h
    · cases h
    · split at h
      next accepted =>
        cases h
        exact accepted
      · exact ih h

theorem uniformOffset_lt {rp x u x' : Nat} (partly : rp ≠ 0)
    (h : uniformOffset rp D x = some (u, x')) : u < rp := by
  rw [uniformOffset] at h
  split_ifs at h with single
  · cases h
    omega
  · exact drawInRange_lt h

/-- R175: the value of a draw is its offset from `lo`, read as a signed integer of the width. -/
theorem offset_of_uniform {x r : Nat} (draw : uniform lo hi D x = some (v, r)) :
    ∃ u : Nat, uniformOffset (rangeSize lo hi D) D x = some (u, r) ∧
      v = (BitVec.ofInt D (lo + u)).toInt := by
  obtain ⟨⟨u, y⟩, offset, eq⟩ := Option.map_eq_some_iff.1 draw
  cases eq
  exact ⟨u, offset, rfl⟩

/-- R175: a draw lies in its closed range: the full range holds every value of the width, and in any
other the offset stays below the size. -/
theorem uniform_between {x r : Nat} (pos : 0 < D) (low : FitsSigned D lo) (high : FitsSigned D hi)
    (order : lo ≤ hi) (draw : uniform lo hi D x = some (v, r)) : lo ≤ v ∧ v ≤ hi := by
  obtain ⟨u, offset, rfl⟩ := offset_of_uniform draw
  obtain ⟨full, -⟩ | size := rangeSize_cases pos low high order
  · have double := two_pow_eq_double pos
    obtain ⟨lower, upper⟩ := fitsSigned_toInt (BitVec.ofInt D (lo + u))
    obtain ⟨lowest, -⟩ := low
    obtain ⟨-, highest⟩ := high
    omega
  · have inside := uniformOffset_lt (by omega) offset
    have above : lo ≤ lo + u := by omega
    have below : lo + u ≤ hi := by omega
    rw [(low.between high above below).toInt_ofInt pos]
    exact ⟨above, below⟩

/-- R175: a range of one value gives that value, and the engine stays where it is. -/
theorem uniform_self (x : Nat) (pos : 0 < D) (fits : FitsSigned D v) :
    uniform v v D x = some (v, x) := by
  have single : rangeSize v v D = 1 := by
    rw [rangeSize, Int.sub_self, Int.zero_add,
      Int.emod_eq_of_lt (by decide) (one_lt_pow₀ (by decide) pos.ne')]
    rfl
  rw [uniform, single, uniformOffset, if_pos rfl, Option.map_some, Nat.cast_zero, Int.add_zero,
    fits.toInt_ofInt pos]

end width

section sampled
variable {i : Instr} {s t : State} {rd : Reg} {lo hi : Int} {D : Nat}

/-- R176, R177: what a completed draw leaves in `rd`, for a width that a register holds. -/
theorem x_between_of_exec_sample (run : exec i s = s.sampleOrRaise rd lo hi D) (pos : 0 < D)
    (narrow : D ≤ 64) (low : FitsSigned D lo) (high : FitsSigned D hi) (running : s.rng ≠ 0)
    (order : lo ≤ hi) (h : exec i s = .next t) : lo ≤ t.x rd ∧ t.x rd ≤ hi := by
  obtain ⟨v, r, draw, drew⟩ := draw_of_exec_sample run running order h
  obtain ⟨above, below⟩ := uniform_between pos low high order draw
  have value : t.x rd = v := by
    rw [State.x, drew.written rd _ rfl, (low.between high above below).s64_u64 narrow]
  exact value ▸ ⟨above, below⟩

/-- R175: a draw from equal bounds is a write of their value. -/
theorem wrote_of_exec_sample_self (run : exec i s = s.sampleOrRaise rd lo lo D) (pos : 0 < D)
    (fits : FitsSigned D lo) (running : s.rng ≠ 0) :
    ∃ t, exec i s = .next t ∧ Wrote s t rd (u64 lo) .ok := by
  have drew := drew_of_exec_sample run running le_rfl (uniform_self s.rng.toNat pos fits)
  rwa [BitVec.ofNat_toNat, BitVec.setWidth_eq] at drew

end sampled

/-- Settles O50, by the range of a draw, for the two widths. -/
theorem uniformDrawStaysInRange : Obligations.UniformDrawStaysInRange := by
  intro s t rd rs1 rs2 running
  exact ⟨x_between_of_exec_sample (exec_randi32 s rd rs1 rs2) (by decide) (by decide)
      (s.xI32_fits rs1) (s.xI32_fits rs2) running,
    x_between_of_exec_sample (exec_randi64 s rd rs1 rs2) (by decide) (by decide)
      (s.x_fits rs1) (s.x_fits rs2) running⟩

/-- Settles O51: a range of one value draws nothing, for the two widths. -/
theorem equalBoundsDrawNothing : Obligations.EqualBoundsDrawNothing := by
  intro s rd rs1 rs2 running
  have run32 := exec_randi32 s rd rs1 rs2
  have run64 := exec_randi64 s rd rs1 rs2
  refine ⟨fun equal => ?_, fun equal => ?_⟩
  · rw [← equal] at run32
    exact wrote_of_exec_sample_self run32 (by decide) (s.xI32_fits rs1) running
  · rw [← equal] at run64
    rw [← u64_x]
    exact wrote_of_exec_sample_self run64 (by decide) (s.x_fits rs1) running

end Sys2Proof.Machine

/-! The grid walker of `44_gridwalk.md`: the path that a walk is, its reversal, the generator that walks
without the exchange, and what the four commands leave. -/

namespace Sys2Proof.Machine

/-! ### The points of an iterated step -/

/-- The cell of a point of a walk. -/
def WalkPoint.cell (p : WalkPoint) : Int × Int := (p.cx, p.cy)

theorem cellsOf_eq_map (ps : List WalkPoint) : cellsOf ps = ps.map WalkPoint.cell := rfl

section points
variable {step back mirror : WalkPoint → WalkPoint} {n : Nat} {p q : WalkPoint}

theorem walkPoints_eq_iterate : walkPoints step n p = List.iterate step p (n + 1) := by
  induction n generalizing p with
  | zero => rfl
  | succ n ih =>
    rw [walkPoints, ih]
    rfl

theorem walkPoints_succ_last :
    walkPoints step (n + 1) p = walkPoints step n p ++ [step^[n + 1] p] := by
  rw [walkPoints_eq_iterate, walkPoints_eq_iterate, List.iterate_add]
  rfl

theorem mem_walkPoints : q ∈ walkPoints step n p ↔ ∃ k ≤ n, q = step^[k] p := by
  simp only [walkPoints_eq_iterate, List.mem_iterate, Nat.lt_succ_iff]

theorem head?_walkPoints : (walkPoints step n p).head? = some p := by
  rw [walkPoints_eq_iterate]
  rfl

theorem getLast?_walkPoints : (walkPoints step n p).getLast? = some (step^[n] p) := by
  cases n with
  | zero => rfl
  | succ n => rw [walkPoints_succ_last, List.getLast?_concat]

theorem isChain_walkPoints {R : WalkPoint → WalkPoint → Prop} (related : ∀ p, R p (step p)) :
    (walkPoints step n p).IsChain R := by
  induction n generalizing p with
  | zero => exact .singleton p
  | succ n ih =>
    refine List.isChain_cons.2 ⟨fun q first => ?_, ih⟩
    rw [head?_walkPoints] at first
    cases first
    exact related p

/-- A step that undoes another one, seen in a mirror, walks the mirrored points backwards. -/
theorem walkPoints_reverse
    (undo : ∀ k < n, back (mirror (step^[k + 1] p)) = mirror (step^[k] p)) :
    walkPoints back n (mirror (step^[n] p)) = ((walkPoints step n p).map mirror).reverse := by
  induction n with
  | zero => rfl
  | succ n ih =>
    rw [walkPoints_succ_last (step := step), List.map_append, List.reverse_append, walkPoints,
      undo n n.lt_succ_self, ih fun k below => undo k (below.trans n.lt_succ_self)]
    rfl

end points

/-! ### Four-connected paths that stay between their ends -/

theorem natAbs_sub_swap (a b : Int) : (a - b).natAbs = (b - a).natAbs := by
  rw [← Int.natAbs_neg, neg_sub]

theorem natAbs_sub_pos {a b : Int} (ne : a ≠ b) : (0 : Int) < (b - a).natAbs :=
  Int.natCast_pos.2 (Int.natAbs_pos.2 (sub_ne_zero.2 ne.symm))

/-- One step towards `b` leaves one step less. -/
theorem natAbs_sub_succ {a b : Int} (before : a + 1 ≤ b) :
    (b - (a + 1)).natAbs + 1 = (b - a).natAbs := by
  omega

theorem adjacent.symm {a b : Int × Int} (h : adjacent a b) : adjacent b a :=
  h.imp (fun ⟨next, row⟩ => ⟨natAbs_sub_swap a.1 b.1 ▸ next, row.symm⟩)
    fun ⟨column, next⟩ => ⟨column.symm, natAbs_sub_swap a.2 b.2 ▸ next⟩

/-- R192: the cells are a path from `a` to `b` that changes one coordinate by one at every step, and
stays in the rectangle that its two ends span. -/
structure PathInBox (a b : Int × Int) (cells : List (Int × Int)) : Prop where
  /-- The first cell. -/
  first : cells.head? = some a
  /-- The last cell. -/
  last : cells.getLast? = some b
  /-- Each step. -/
  chain : cells.IsChain adjacent
  /-- The rectangle. -/
  inside : ∀ c ∈ cells, c ∈ Set.uIcc a b

theorem PathInBox.reverse {a b : Int × Int} {cells : List (Int × Int)} (h : PathInBox a b cells) :
    PathInBox b a cells.reverse where
  first := by rw [List.head?_reverse, h.last]
  last := by rw [List.getLast?_reverse, h.first]
  chain := List.isChain_reverse.2 (h.chain.imp fun _ _ => adjacent.symm)
  inside c mem := Set.uIcc_comm a b ▸ h.inside c (List.mem_reverse.1 mem)

/-- The rectangle, one coordinate at a time. -/
theorem mem_box_iff {a b c : Int × Int} :
    c ∈ Set.uIcc a b ↔ c.1 ∈ Set.uIcc a.1 b.1 ∧ c.2 ∈ Set.uIcc a.2 b.2 := by
  rw [Set.uIcc_prod_eq, Set.mem_prod]

/-! ### The numbers from `a` to `b` (R191 case 2) -/

section steps
variable {a b c : Int}

theorem stepsBetween_eq_map (a b : Int) : stepsBetween a b =
    (List.range ((b - a).natAbs + 1)).map fun k : Nat => if a ≤ b then a + k else a - k := by
  rw [stepsBetween, bind_pure_comp, List.map_eq_map, List.map_map]
  rfl

theorem mem_stepsBetween : c ∈ stepsBetween a b ↔ c ∈ Set.uIcc a b := by
  rw [stepsBetween_eq_map, List.mem_map, Set.mem_uIcc]
  constructor
  · rintro ⟨k, below, rfl⟩
    rw [List.mem_range] at below
    split <;> omega
  · intro between
    refine ⟨(c - a).natAbs, List.mem_range.2 (by omega), ?_⟩
    split <;> omega

theorem head?_stepsBetween (a b : Int) : (stepsBetween a b).head? = some a := by
  simp [stepsBetween_eq_map, List.range_succ_eq_map]

theorem getLast?_stepsBetween (a b : Int) : (stepsBetween a b).getLast? = some b := by
  rw [stepsBetween_eq_map, List.range_succ, List.map_append, List.map_singleton, List.getLast?_concat]
  congr 1
  split <;> omega

theorem isChain_stepsBetween (a b : Int) :
    (stepsBetween a b).IsChain fun c d => (c - d).natAbs = 1 := by
  rw [stepsBetween_eq_map, List.isChain_map]
  refine (List.isChain_range_succ _ _).2 fun k _ => ?_
  split <;> omega

/-- R193: the numbers from `b` to `a` are those from `a` to `b` in the reverse order. -/
theorem stepsBetween_reverse (a b : Int) : stepsBetween b a = (stepsBetween a b).reverse := by
  have length : (stepsBetween b a).length = (stepsBetween a b).reverse.length := by
    rw [List.length_reverse, stepsBetween_length, stepsBetween_length, natAbs_sub_swap]
  refine List.ext_getElem length fun k below _ => ?_
  rw [stepsBetween_length, natAbs_sub_swap] at below
  rw [List.getElem_reverse]
  simp only [stepsBetween_eq_map, List.length_map, List.length_range, List.getElem_map,
    List.getElem_range]
  clear length
  split <;> split <;> omega

/-- R191 case 2: a row or a column, as `line`, walked from `a` to `b`. -/
theorem stepsBetween_path (line : Int → Int × Int)
    (next : ∀ c d, (c - d).natAbs = 1 → adjacent (line c) (line d))
    (inside : ∀ c ∈ Set.uIcc a b, line c ∈ Set.uIcc (line a) (line b)) :
    PathInBox (line a) (line b) ((stepsBetween a b).map line) where
  first := by rw [List.head?_map, head?_stepsBetween, Option.map_some]
  last := by rw [List.getLast?_map, getLast?_stepsBetween, Option.map_some]
  chain := (List.isChain_map line).2 ((isChain_stepsBetween a b).imp next)
  inside := List.forall_mem_map.2 fun c mem => inside c (mem_stepsBetween.1 mem)

end steps

/-! ### The error term of the general case (R192) -/

/-- R192: the distance from the coordinate `v` to the edge of cell index `c` that a walk in the
direction of `d` leaves it through. -/
def edgeAhead (v d c : Int) : Int := if d > 0 then cellEdge * (c + 1) - v else v - cellEdge * c

theorem toBoundary_eq_edgeAhead (v d : Int) : toBoundary v d = edgeAhead v d (cellIndex v) := by
  have division := Int.emod_def v cellEdge
  have index : cellIndex v = v / cellEdge := rfl
  rw [toBoundary, edgeAhead, index]
  split
  · linarith
  · linarith

/-- The next cell's edge is one cell further. -/
theorem edgeAhead_next (v d c : Int) :
    edgeAhead v d (c + if d > 0 then 1 else -1) = edgeAhead v d c + cellEdge := by
  unfold edgeAhead
  split <;> ring

section edges
variable {s e c : Int}

/-- The first edge is within one cell. -/
theorem edgeAhead_start_bounds (s d : Int) :
    0 ≤ edgeAhead s d (cellIndex s) ∧ edgeAhead s d (cellIndex s) ≤ cellEdge ∧
      (d > 0 → 0 < edgeAhead s d (cellIndex s)) := by
  unfold edgeAhead cellIndex asr cellEdge
  split <;> omega

/-- R190: a coordinate lies in its cell. -/
theorem cellIndex_bounds (v : Int) :
    cellEdge * cellIndex v ≤ v ∧ v < cellEdge * cellIndex v + cellEdge := by
  unfold cellIndex asr cellEdge
  omega

theorem cellIndex_mono {v w : Int} (order : v ≤ w) : cellIndex v ≤ cellIndex w :=
  Int.ediv_le_ediv (by decide) order

/-- Before the last cell index, in the direction of the segment: which indices are left. -/
theorem index_before_last (between : c ∈ Set.uIcc (cellIndex s) (cellIndex e))
    (before : c ≠ cellIndex e) :
    (e - s > 0 ∧ cellIndex s ≤ c ∧ c + 1 ≤ cellIndex e) ∨
      (¬ e - s > 0 ∧ cellIndex e + 1 ≤ c ∧ c ≤ cellIndex s) := by
  obtain up | down := lt_or_ge s e
  · rw [Set.uIcc_of_le (cellIndex_mono up.le)] at between
    exact .inl ⟨sub_pos.2 up, between.1, lt_of_le_of_ne between.2 before⟩
  · rw [Set.uIcc_of_ge (cellIndex_mono down)] at between
    exact .inr ⟨not_lt.2 (sub_nonpos.2 down), lt_of_le_of_ne between.1 before.symm, between.2⟩

/-- Before the last cell index the next one is closer to it, and not past it. -/
theorem nextIndex_closer (between : c ∈ Set.uIcc (cellIndex s) (cellIndex e))
    (before : c ≠ cellIndex e) :
    (c + if e - s > 0 then 1 else -1) ∈ Set.uIcc (cellIndex s) (cellIndex e) ∧
      (cellIndex e - (c + if e - s > 0 then 1 else -1)).natAbs + 1 = (cellIndex e - c).natAbs := by
  obtain ⟨up, above, below⟩ | ⟨down, above, below⟩ := index_before_last between before
  · rw [if_pos up]
    exact ⟨Set.mem_uIcc.2 (.inl ⟨by linarith, below⟩), natAbs_sub_succ below⟩
  · rw [if_neg down]
    refine ⟨Set.mem_uIcc.2 (.inr ⟨by linarith, by linarith⟩), ?_⟩
    rw [natAbs_sub_swap, natAbs_sub_swap _ c, ← natAbs_sub_succ above]
    congr 2
    ring

/-- R192: before the last cell index the next edge lies on the segment. -/
theorem edgeAhead_le (between : c ∈ Set.uIcc (cellIndex s) (cellIndex e)) (before : c ≠ cellIndex e) :
    edgeAhead s (e - s) c ≤ (e - s).natAbs := by
  obtain ⟨low, high⟩ := cellIndex_bounds e
  have size : (0 : Int) ≤ cellEdge := by decide
  obtain ⟨up, -, below⟩ | ⟨down, above, -⟩ := index_before_last between before
  · have scaled := mul_le_mul_of_nonneg_left below size
    rw [edgeAhead, if_pos up, Int.natAbs_of_nonneg up.le]
    linarith
  · have scaled := mul_le_mul_of_nonneg_left above size
    rw [edgeAhead, if_neg down, Int.ofNat_natAbs_of_nonpos (not_lt.1 down)]
    linarith

/-- R192: at the last cell index it does not lie before the end of the segment. -/
theorem le_edgeAhead_last (s e : Int) :
    ((e - s).natAbs : Int) ≤ edgeAhead s (e - s) (cellIndex e) ∧
      (s < e → ((e - s).natAbs : Int) < edgeAhead s (e - s) (cellIndex e)) := by
  obtain ⟨low, high⟩ := cellIndex_bounds e
  obtain up | down := lt_or_ge s e
  · have strict : ((e - s).natAbs : Int) < edgeAhead s (e - s) (cellIndex e) := by
      rw [edgeAhead, if_pos (sub_pos.2 up), Int.natAbs_of_nonneg (sub_pos.2 up).le]
      linarith
    exact ⟨strict.le, fun _ => strict⟩
  · refine ⟨?_, fun up => absurd down (not_le.2 up)⟩
    rw [edgeAhead, if_neg (not_lt.2 (sub_nonpos.2 down)),
      Int.ofNat_natAbs_of_nonpos (sub_nonpos.2 down)]
    linarith

/-- The two edges of a cell index, one met from each end of the segment. -/
theorem edgeAhead_add_edgeAhead (c : Int) (ne : s ≠ e) :
    edgeAhead s (e - s) c + edgeAhead e (s - e) c = cellEdge + (e - s).natAbs := by
  obtain up | down := lt_or_gt_of_ne ne
  · rw [edgeAhead, edgeAhead, if_pos (sub_pos.2 up), if_neg (not_lt.2 (sub_neg.2 up).le),
      Int.natAbs_of_nonneg (sub_pos.2 up).le]
    ring
  · rw [edgeAhead, edgeAhead, if_neg (not_lt.2 (sub_neg.2 down).le), if_pos (sub_pos.2 down),
      Int.ofNat_natAbs_of_nonpos (sub_neg.2 down).le]
    ring

end edges

/-- R192: the error term at a cell, which has the sign of `t_x - t_y` there. -/
def walkError (sx sy ex ey cx cy : Int) : Int :=
  edgeAhead sx (ex - sx) cx * ((ey - sy).natAbs : Int) -
    edgeAhead sy (ey - sy) cy * ((ex - sx).natAbs : Int)

/-- R191 case 3: the point that a walk starts at. -/
def walkStart (sx sy ex ey : Int) : WalkPoint where
  cx := cellIndex sx
  cy := cellIndex sy
  e := walkError sx sy ex ey (cellIndex sx) (cellIndex sy)

theorem walkDirect_eq (sx sy ex ey : Int) : walkDirect sx sy ex ey =
    cellsOf (walkPoints (directStep (ex - sx) (ey - sy)) (walkLength sx sy ex ey)
      (walkStart sx sy ex ey)) := by
  rw [walkDirect, toBoundary_eq_edgeAhead, toBoundary_eq_edgeAhead]
  rfl

section error
variable {sx sy ex ey cx cy : Int}

theorem walkForward_eq (east : sx < ex) : walkForward sx sy ex ey =
    cellsOf (walkPoints (walkStep (ex - sx) (ey - sy)) (walkLength sx sy ex ey)
      (walkStart sx sy ex ey)) := by
  have width := Int.natAbs_of_nonneg (sub_pos.2 east).le
  rw [walkForward, toBoundary_eq_edgeAhead, toBoundary_eq_edgeAhead, walkStart, walkError, width]

/-- In the last column a walk towards +x has met its last x edge. -/
theorem walkError_last_column (east : sx < ex) (rises : sy ≠ ey)
    (between : cy ∈ Set.uIcc (cellIndex sy) (cellIndex ey)) (before : cy ≠ cellIndex ey) :
    0 < walkError sx sy ex ey (cellIndex ex) cy := by
  have height := natAbs_sub_pos rises
  have width := Int.natCast_nonneg (ex - sx).natAbs
  have yEdge := mul_le_mul_of_nonneg_right (edgeAhead_le between before) width
  have xEdge := mul_lt_mul_of_pos_right ((le_edgeAhead_last sx ex).2 east) height
  rw [walkError]
  linarith

/-- In the last row a walk has met its last y edge. -/
theorem walkError_last_row (between : cx ∈ Set.uIcc (cellIndex sx) (cellIndex ex))
    (before : cx ≠ cellIndex ex) : walkError sx sy ex ey cx (cellIndex ey) ≤ 0 := by
  have height := Int.natCast_nonneg (ey - sy).natAbs
  have width := Int.natCast_nonneg (ex - sx).natAbs
  have xEdge := mul_le_mul_of_nonneg_right (edgeAhead_le between before) height
  have yEdge := mul_le_mul_of_nonneg_right (le_edgeAhead_last sy ey).1 width
  rw [walkError]
  linarith

/-- R193: the error at a cell as the walk from the other end has it. -/
theorem walkError_turned (cx cy : Int) (hx : sx ≠ ex) (hy : sy ≠ ey) :
    walkError ex ey sx sy cx cy = cellEdge * ((ey - sy).natAbs : Int) -
      cellEdge * ((ex - sx).natAbs : Int) - walkError sx sy ex ey cx cy := by
  have xEdges : edgeAhead ex (sx - ex) cx =
      cellEdge + (ex - sx).natAbs - edgeAhead sx (ex - sx) cx :=
    eq_sub_of_add_eq' (edgeAhead_add_edgeAhead cx hx)
  have yEdges : edgeAhead ey (sy - ey) cy =
      cellEdge + (ey - sy).natAbs - edgeAhead sy (ey - sy) cy :=
    eq_sub_of_add_eq' (edgeAhead_add_edgeAhead cy hy)
  rw [walkError, walkError, xEdges, yEdges, natAbs_sub_swap sx ex, natAbs_sub_swap sy ey]
  ring

end error

/-! ### One step of the general case -/

section stepping
variable {dx dy : Int} {p : WalkPoint}

theorem walkStep_of_nonpos (dx dy : Int) (h : p.e ≤ 0) : walkStep dx dy p =
    { cx := p.cx + 1, cy := p.cy, e := p.e + cellEdge * (dy.natAbs : Int) } := if_pos h

theorem walkStep_of_pos (dx dy : Int) (h : 0 < p.e) : walkStep dx dy p =
    { cx := p.cx, cy := p.cy + (if dy > 0 then 1 else -1), e := p.e - cellEdge * dx } :=
  if_neg (not_le.2 h)

/-- R192: whichever way it goes, a step changes one coordinate by one. -/
theorem adjacent_walkStep (dx dy : Int) (p : WalkPoint) :
    adjacent p.cell (walkStep dx dy p).cell := by
  obtain along | across := le_or_gt p.e 0
  · rw [walkStep_of_nonpos dx dy along]
    refine .inl ⟨?_, rfl⟩
    simp only [WalkPoint.cell]
    omega
  · rw [walkStep_of_pos dx dy across]
    refine .inr ⟨rfl, ?_⟩
    simp only [WalkPoint.cell]
    split <;> omega

/-- R199: towards +x the two generators take the same step, ties included. -/
theorem directStep_of_pos (east : 0 < dx) (dy : Int) : directStep dx dy = walkStep dx dy := by
  funext p
  have tie : (p.e < 0 ∨ (p.e = 0 ∧ dx > 0)) ↔ p.e ≤ 0 := by
    rw [and_iff_left east, le_iff_lt_or_eq]
  simp only [directStep, walkStep, tie, if_pos east, Int.natAbs_of_nonneg east.le]

/-- R193: a point as the walk from the other end has it: the same cell, with the error at the opposite
corner. -/
def WalkPoint.turned (dx dy : Int) (p : WalkPoint) : WalkPoint :=
  { p with e := cellEdge * (dy.natAbs : Int) - cellEdge * dx - p.e }

/-- R199: walking towards -x, the generator without the exchange undoes a step towards +x. The bounds of
the error make it choose the same axis, and at the upper one its tie does. -/
theorem directStep_turned_walkStep (east : 0 < dx) (rises : dy ≠ 0) (low : -(cellEdge * dx) < p.e)
    (high : p.e ≤ cellEdge * (dy.natAbs : Int)) :
    directStep (-dx) (-dy) ((walkStep dx dy p).turned dx dy) = p.turned dx dy := by
  have west : ¬ -dx > 0 := not_lt.2 (neg_nonpos.2 east.le)
  obtain along | across := le_or_gt p.e 0
  · have backAlong : ((walkStep dx dy p).turned dx dy).e < 0 := by
      rw [walkStep_of_nonpos dx dy along]
      simp only [WalkPoint.turned]
      linarith
    rw [directStep, if_pos (.inl backAlong), walkStep_of_nonpos dx dy along]
    simp only [WalkPoint.turned, if_neg west, Int.natAbs_neg, WalkPoint.mk.injEq]
    exact ⟨by ring, trivial, by ring⟩
  · have backAcross : 0 ≤ ((walkStep dx dy p).turned dx dy).e := by
      rw [walkStep_of_pos dx dy across]
      simp only [WalkPoint.turned]
      linarith
    rw [directStep, if_neg (not_or.2 ⟨not_lt.2 backAcross, fun tie => west tie.2⟩),
      walkStep_of_pos dx dy across]
    simp only [WalkPoint.turned, Int.natAbs_neg, Int.natAbs_of_nonneg east.le, WalkPoint.mk.injEq,
      true_and]
    refine ⟨?_, by ring⟩
    obtain up | down := lt_or_gt_of_ne rises.symm
    · rw [if_pos up, if_neg (not_lt.2 (neg_nonpos.2 up.le)), add_neg_cancel_right]
    · rw [if_neg (not_lt.2 down.le), if_pos (neg_pos.2 down), neg_add_cancel_right]

end stepping

/-! ### The invariant of the general case (R192) -/

/-- R192: what holds of the point that a walk towards +x reaches after `k` steps. -/
structure OnWalk (sx sy ex ey : Int) (k : Nat) (p : WalkPoint) : Prop where
  /-- The error term is the error at the point's cell. -/
  error : p.e = walkError sx sy ex ey p.cx p.cy
  /-- The lower bound of the error term. -/
  low : -(cellEdge * (ex - sx)) < p.e
  /-- The upper bound of the error term. -/
  high : p.e ≤ cellEdge * ((ey - sy).natAbs : Int)
  /-- The x index is between those of the ends. -/
  column : p.cx ∈ Set.uIcc (cellIndex sx) (cellIndex ex)
  /-- The y index is between those of the ends. -/
  row : p.cy ∈ Set.uIcc (cellIndex sy) (cellIndex ey)
  /-- Every step has brought the point one cell closer to the end. -/
  left : (cellIndex ex - p.cx).natAbs + (cellIndex ey - p.cy).natAbs + k = walkLength sx sy ex ey

section invariant
variable {sx sy ex ey : Int} {k : Nat} {p : WalkPoint}

theorem walkStart_onWalk (east : sx < ex) (rises : sy ≠ ey) :
    OnWalk sx sy ex ey 0 (walkStart sx sy ex ey) := by
  obtain ⟨-, xHigh, xLow⟩ := edgeAhead_start_bounds sx (ex - sx)
  obtain ⟨yLow, yHigh, -⟩ := edgeAhead_start_bounds sy (ey - sy)
  have height := natAbs_sub_pos rises
  have width := Int.natAbs_of_nonneg (sub_pos.2 east).le
  have xPos := mul_pos (xLow (sub_pos.2 east)) height
  have xMost := mul_le_mul_of_nonneg_right xHigh height.le
  have yNonneg := mul_nonneg yLow (sub_pos.2 east).le
  have yMost := mul_le_mul_of_nonneg_right yHigh (sub_pos.2 east).le
  refine ⟨rfl, ?_, ?_, Set.left_mem_uIcc, Set.left_mem_uIcc, rfl⟩
  · rw [walkStart, walkError, width]
    linarith
  · rw [walkStart, walkError, width]
    linarith

/-- R192: before the last step the walk is not at the end. -/
theorem OnWalk.not_at_end (h : OnWalk sx sy ex ey k p) (more : k < walkLength sx sy ex ey)
    (column : p.cx = cellIndex ex) : p.cy ≠ cellIndex ey := fun row =>
  more.ne (by simpa [column, row] using h.left)

/-- R192: a step along x keeps the invariant, for the last column is not reached yet. -/
theorem OnWalk.step_along (h : OnWalk sx sy ex ey k p) (east : sx < ex) (rises : sy ≠ ey)
    (more : k < walkLength sx sy ex ey) (along : p.e ≤ 0) :
    OnWalk sx sy ex ey (k + 1) (walkStep (ex - sx) (ey - sy) p) := by
  have notEnd := h.not_at_end more
  obtain ⟨error, low, high, column, row, left⟩ := h
  have before : p.cx ≠ cellIndex ex := by
    intro last
    rw [error, last] at along
    exact absurd (walkError_last_column east rises row (notEnd last)) (not_lt.2 along)
  have height : (0 : Int) < cellEdge * (ey - sy).natAbs := mul_pos (by decide) (natAbs_sub_pos rises)
  have further := edgeAhead_next sx (ex - sx) p.cx
  obtain ⟨inside, closer⟩ := nextIndex_closer column before
  rw [if_pos (sub_pos.2 east)] at further inside closer
  rw [walkStep_of_nonpos _ _ along]
  refine ⟨?_, by linarith, by linarith, inside, row, ?_⟩
  · rw [error, walkError, walkError, further]
    ring
  · rw [← left, ← closer]
    ring

/-- R192: a step along y keeps the invariant, for the last row is not reached yet. -/
theorem OnWalk.step_across (h : OnWalk sx sy ex ey k p) (east : sx < ex)
    (more : k < walkLength sx sy ex ey) (across : 0 < p.e) :
    OnWalk sx sy ex ey (k + 1) (walkStep (ex - sx) (ey - sy) p) := by
  have notEnd := h.not_at_end more
  obtain ⟨error, low, high, column, row, left⟩ := h
  have before : p.cy ≠ cellIndex ey := by
    intro last
    rw [error, last] at across
    exact absurd (walkError_last_row column (notEnd · last)) (not_le.2 across)
  have width := Int.natAbs_of_nonneg (sub_pos.2 east).le
  have forward : 0 < cellEdge * (ex - sx) := mul_pos (by decide) (sub_pos.2 east)
  obtain ⟨inside, closer⟩ := nextIndex_closer row before
  rw [walkStep_of_pos _ _ across]
  refine ⟨?_, by linarith, by linarith, column, inside, ?_⟩
  · rw [error, walkError, walkError, edgeAhead_next, width]
    ring
  · rw [← left, ← closer]
    ring

/-- R192: the invariant holds along the whole walk. -/
theorem iterate_onWalk (east : sx < ex) (rises : sy ≠ ey) (within : k ≤ walkLength sx sy ex ey) :
    OnWalk sx sy ex ey k ((walkStep (ex - sx) (ey - sy))^[k] (walkStart sx sy ex ey)) := by
  induction k with
  | zero => exact walkStart_onWalk east rises
  | succ k ih =>
    rw [Function.iterate_succ_apply']
    have here := ih (Nat.le_of_succ_le within)
    obtain along | across := le_or_gt
      ((walkStep (ex - sx) (ey - sy))^[k] (walkStart sx sy ex ey)).e 0
    · exact here.step_along east rises within along
    · exact here.step_across east within across

/-- R192: after the last step the walk is at the end, with the error there. -/
theorem OnWalk.eq_end (h : OnWalk sx sy ex ey (walkLength sx sy ex ey) p) :
    p = { cx := cellIndex ex, cy := cellIndex ey,
          e := walkError sx sy ex ey (cellIndex ex) (cellIndex ey) } := by
  obtain ⟨cx, cy, e⟩ := p
  obtain ⟨error, -, -, -, -, left⟩ := h
  dsimp only at error left
  obtain ⟨rfl, rfl⟩ : cellIndex ex = cx ∧ cellIndex ey = cy := by
    simpa [Int.natAbs_eq_zero, sub_eq_zero] using left
  rw [error]

/-- R192: the walk towards +x is a path. -/
theorem walkForward_path (east : sx < ex) (rises : sy ≠ ey) :
    PathInBox (cellIndex sx, cellIndex sy) (cellIndex ex, cellIndex ey)
      (walkForward sx sy ex ey) := by
  rw [walkForward_eq east, cellsOf_eq_map]
  constructor
  case first =>
    rw [List.head?_map, head?_walkPoints]
    rfl
  case last =>
    rw [List.getLast?_map, getLast?_walkPoints, (iterate_onWalk east rises le_rfl).eq_end]
    rfl
  case chain =>
    exact (List.isChain_map _).2 (isChain_walkPoints (adjacent_walkStep (ex - sx) (ey - sy)))
  case inside =>
    refine List.forall_mem_map.2 fun p mem => mem_box_iff.2 ?_
    obtain ⟨k, within, rfl⟩ := mem_walkPoints.1 mem
    have here := iterate_onWalk east rises within
    exact ⟨here.column, here.row⟩

/-- R199: from the end towards -x, the generator without the exchange walks the cells backwards. -/
theorem walkDirect_back (east : sx < ex) (rises : sy ≠ ey) :
    walkDirect ex ey sx sy = (walkForward sx sy ex ey).reverse := by
  have start : walkStart ex ey sx sy =
      ((walkStep (ex - sx) (ey - sy))^[walkLength sx sy ex ey] (walkStart sx sy ex ey)).turned
        (ex - sx) (ey - sy) := by
    have width := Int.natAbs_of_nonneg (sub_pos.2 east).le
    rw [(iterate_onWalk east rises le_rfl).eq_end, walkStart, WalkPoint.turned,
      walkError_turned _ _ east.ne rises, width]
  have undo : ∀ k < walkLength sx sy ex ey, directStep (sx - ex) (sy - ey)
      (((walkStep (ex - sx) (ey - sy))^[k + 1] (walkStart sx sy ex ey)).turned (ex - sx) (ey - sy)) =
      ((walkStep (ex - sx) (ey - sy))^[k] (walkStart sx sy ex ey)).turned (ex - sx) (ey - sy) := by
    intro k more
    have here := iterate_onWalk east rises more.le
    rw [Function.iterate_succ_apply', ← neg_sub ex sx, ← neg_sub ey sy]
    exact directStep_turned_walkStep (sub_pos.2 east) (sub_ne_zero.2 rises.symm) here.low here.high
  rw [walkDirect_eq, walkLength_comm, start, walkPoints_reverse undo, walkForward_eq east,
    cellsOf_eq_map, cellsOf_eq_map, List.map_reverse, List.map_map]
  rfl

end invariant

/-! ### The walk in all its cases (R191) -/

section walk
variable {sx sy ex ey : Int}

theorem walkCells_of_row (row : cellIndex sy = cellIndex ey) : walkCells sx sy ex ey =
    (stepsBetween (cellIndex sx) (cellIndex ex)).map fun cx => (cx, cellIndex sy) := by
  unfold walkCells
  split_ifs with same
  · rw [same.1]
    simp [stepsBetween]
  · rfl

theorem walkCells_of_column (row : cellIndex sy ≠ cellIndex ey)
    (column : cellIndex sx = cellIndex ex) : walkCells sx sy ex ey =
    (stepsBetween (cellIndex sy) (cellIndex ey)).map fun cy => (cellIndex sx, cy) := by
  simp [walkCells, row, column]

theorem walkCells_of_west (row : cellIndex sy ≠ cellIndex ey)
    (column : cellIndex sx ≠ cellIndex ex) (west : ex < sx) :
    walkCells sx sy ex ey = (walkForward ex ey sx sy).reverse := by
  simp [walkCells, row, column, west]

theorem walkCells_of_east (row : cellIndex sy ≠ cellIndex ey)
    (column : cellIndex sx ≠ cellIndex ex) (east : sx < ex) :
    walkCells sx sy ex ey = walkForward sx sy ex ey := by
  simp [walkCells, row, column, east.not_gt]

/-- R191, R192: every walk is a path that stays between its ends. -/
theorem walkCells_path (sx sy ex ey : Int) :
    PathInBox (cellIndex sx, cellIndex sy) (cellIndex ex, cellIndex ey)
      (walkCells sx sy ex ey) := by
  by_cases row : cellIndex sy = cellIndex ey
  · rw [walkCells_of_row row, ← row]
    exact stepsBetween_path (fun cx => (cx, cellIndex sy)) (fun _ _ next => .inl ⟨next, rfl⟩)
      fun _ between => mem_box_iff.2 ⟨between, Set.left_mem_uIcc⟩
  by_cases column : cellIndex sx = cellIndex ex
  · rw [walkCells_of_column row column, ← column]
    exact stepsBetween_path (fun cy => (cellIndex sx, cy)) (fun _ _ next => .inr ⟨rfl, next⟩)
      fun _ between => mem_box_iff.2 ⟨Set.left_mem_uIcc, between⟩
  have rises : sy ≠ ey := fun same => row (congrArg cellIndex same)
  obtain east | same | west := lt_trichotomy sx ex
  · rw [walkCells_of_east row column east]
    exact walkForward_path east rises
  · exact absurd (congrArg cellIndex same) column
  · rw [walkCells_of_west row column west]
    exact (walkForward_path west rises.symm).reverse

end walk

/-- Settles O55: every walk is a path, and its length is known. -/
theorem walkIsAFourConnectedPath : Obligations.WalkIsAFourConnectedPath := by
  intro sx sy ex ey
  have path := walkCells_path sx sy ex ey
  exact ⟨path.first, path.last, path.chain, walkCells_length sx sy ex ey⟩

/-- Settles O56, by the cases of R191: two that exchange their ends normalise to the same walk. -/
theorem walkBackIsTheReverse : Obligations.WalkBackIsTheReverse := by
  intro sx sy ex ey
  by_cases row : cellIndex sy = cellIndex ey
  · rw [walkCells_of_row row, walkCells_of_row row.symm, row, stepsBetween_reverse, List.map_reverse]
  by_cases column : cellIndex sx = cellIndex ex
  · rw [walkCells_of_column row column, walkCells_of_column (Ne.symm row) column.symm, column,
      stepsBetween_reverse, List.map_reverse]
  obtain east | same | west := lt_trichotomy sx ex
  · rw [walkCells_of_east row column east, walkCells_of_west (Ne.symm row) (Ne.symm column) east]
  · exact absurd (congrArg cellIndex same) column
  · rw [walkCells_of_west row column west, walkCells_of_east (Ne.symm row) (Ne.symm column) west,
      List.reverse_reverse]

/-- Settles O57: towards +x the steps are the same, and towards -x they undo those of the exchanged
walk. -/
theorem directGeneratorAgrees : Obligations.DirectGeneratorAgrees := by
  intro sx sy ex ey _ column row
  have rises : sy ≠ ey := fun same => row (congrArg cellIndex same)
  obtain east | same | west := lt_trichotomy sx ex
  · rw [walkCells_of_east row column east, walkDirect_eq, walkForward_eq east,
      directStep_of_pos (sub_pos.2 east)]
  · exact absurd (congrArg cellIndex same) column
  · rw [walkCells_of_west row column west, walkDirect_back west rises.symm]

/-! ### Legal coordinates (R195) -/

theorem coordinateLegal_iff_range (v : Int) :
    coordinateLegal v = true ↔ -2 ^ 49 ≤ v ∧ v < 2 ^ 49 := by
  rw [coordinateLegal_iff, cellIndex, asr]
  omega

theorem coordinatesLegal_iff (sx sy ex ey : Int) : coordinatesLegal sx sy ex ey ↔
    (coordinateLegal sx && coordinateLegal sy && coordinateLegal ex && coordinateLegal ey) = true := by
  simp only [coordinatesLegal, List.forall_mem_cons, ← coordinateLegal_iff_range, Bool.and_eq_true,
    and_assoc, List.not_mem_nil, false_implies, implies_true, and_true]

/-- R190: the cell indices of a legal coordinate. -/
theorem cellIndex_fits {v : Int} (legal : -2 ^ 49 ≤ v ∧ v < 2 ^ 49) : FitsSigned 32 (cellIndex v) := by
  rw [FitsSigned, cellIndex, asr]
  omega

/-- A number between two that fit a width fits it too. -/
theorem FitsSigned.of_mem_uIcc {D : Nat} {a b c : Int} (ha : FitsSigned D a) (hb : FitsSigned D b)
    (between : c ∈ Set.uIcc a b) : FitsSigned D c := by
  obtain ⟨above, below⟩ | ⟨above, below⟩ := Set.mem_uIcc.1 between
  · exact ha.between hb above below
  · exact hb.between ha above below

/-- R29, R190: both indices of every cell of a legal walk fit. -/
theorem walkCells_fit {sx sy ex ey : Int} {c : Int × Int} (legal : coordinatesLegal sx sy ex ey)
    (mem : c ∈ walkCells sx sy ex ey) : FitsSigned 32 c.1 ∧ FitsSigned 32 c.2 := by
  obtain ⟨column, row⟩ := mem_box_iff.1 ((walkCells_path sx sy ex ey).inside c mem)
  have fits : ∀ v ∈ [sx, sy, ex, ey], FitsSigned 32 (cellIndex v) := fun v hv =>
    cellIndex_fits (legal v hv)
  exact ⟨(fits sx (by simp)).of_mem_uIcc (fits ex (by simp)) column,
    (fits sy (by simp)).of_mem_uIcc (fits ey (by simp)) row⟩

/-- Settles O58: the cells lie between those of the ends. -/
theorem walkCellsFitTheQueue : Obligations.WalkCellsFitTheQueue := by
  intro sx sy ex ey legal c mem
  obtain ⟨⟨xLow, xHigh⟩, yLow, yHigh⟩ := walkCells_fit legal mem
  exact ⟨xLow, xHigh, yLow, yHigh⟩

/-! ### The commands -/

/-- Settles O53: `SETGRID` completes over the state with its bounds set. -/
theorem setGridResult : Obligations.SetGridResult := by
  intro s rs1 rs2
  exact ⟨⟨rfl, rfl⟩, _, rfl, complete_ended (fun _ => rfl) rfl rfl rfl rfl⟩

theorem exec_walk (s : State) (rs1 rs2 rs3 rs4 : Reg) : exec (.walk rs1 rs2 rs3 rs4) s =
    .next (s.queueOrRaise (walkQueue (s.x rs1) (s.x rs2) (s.x rs3) (s.x rs4))) := rfl

theorem exec_walkb (s : State) (rs1 rs2 rs3 rs4 : Reg) : exec (.walkb rs1 rs2 rs3 rs4) s =
    .next (s.queueOrRaise ((walkQueue (s.x rs1) (s.x rs2) (s.x rs3) (s.x rs4)).map
      (List.filter (insideGrid s.gridW s.gridH)))) := rfl

section walkCommands
variable {i : Instr} {s : State} {r : Except Status (List Cell)}

theorem queued_of_exec_queueOrRaise {q : List Cell} (run : exec i s = .next (s.queueOrRaise r))
    (value : r = .ok q) : ∃ t, exec i s = .next t ∧ Queued s t q := by
  subst value
  exact ⟨_, run, setWq_complete_queued s q⟩

theorem raised_of_exec_queueOrRaise {st : Status} (run : exec i s = .next (s.queueOrRaise r))
    (error : r = .error st) : ∃ t, exec i s = .next t ∧ Raised s t st := by
  subst error
  exact ⟨_, run, raise_raised s st⟩

variable {sx sy ex ey : Int}

theorem walkQueue_of_legal (legal : coordinatesLegal sx sy ex ey) :
    walkQueue sx sy ex ey = .ok ((walkCells sx sy ex ey).map cellOf) :=
  if_pos ((coordinatesLegal_iff sx sy ex ey).1 legal)

theorem walkQueue_of_illegal (illegal : ¬ coordinatesLegal sx sy ex ey) :
    walkQueue sx sy ex ey = .error .precondition :=
  if_neg fun legal => illegal ((coordinatesLegal_iff sx sy ex ey).2 legal)

/-- R196: the bound read on the cell as it is stored is the bound on its indices. -/
theorem insideGrid_cellOf (w h : Word32) {c : Int × Int} (hx : FitsSigned 32 c.1)
    (hy : FitsSigned 32 c.2) : insideGrid w h (cellOf c) =
      decide (0 ≤ c.1 ∧ c.1 < (w.toNat : Int) ∧ 0 ≤ c.2 ∧ c.2 < (h.toNat : Int)) := by
  have readX : s32 (u32 c.1) = c.1 := hx.toInt_ofInt (by decide)
  have readY : s32 (u32 c.2) = c.2 := hy.toInt_ofInt (by decide)
  simp only [insideGrid, cellOf, readX, readY, Bool.decide_and, Bool.and_assoc]

/-- R196: filtering the queue is filtering the walk. -/
theorem walkQueue_filter_of_legal (w h : Word32) (legal : coordinatesLegal sx sy ex ey) :
    (walkQueue sx sy ex ey).map (List.filter (insideGrid w h)) =
      .ok (((walkCells sx sy ex ey).filter fun c =>
        decide (0 ≤ c.1 ∧ c.1 < (w.toNat : Int) ∧ 0 ≤ c.2 ∧ c.2 < (h.toNat : Int))).map cellOf) := by
  rw [walkQueue_of_legal legal, Except.map, List.filter_map]
  congr 2
  refine List.filter_congr fun c mem => ?_
  obtain ⟨hx, hy⟩ := walkCells_fit legal mem
  exact insideGrid_cellOf w h hx hy

end walkCommands

/-- Settles O54, by whether the coordinates are legal, for the two commands. -/
theorem walkResults : Obligations.WalkResults := by
  intro s rs1 rs2 rs3 rs4
  have run := exec_walk s rs1 rs2 rs3 rs4
  have runBounded := exec_walkb s rs1 rs2 rs3 rs4
  refine ⟨⟨rfl, rfl⟩, ⟨rfl, rfl⟩, fun legal => ?_, fun illegal => ?_⟩
  · exact ⟨queued_of_exec_queueOrRaise run (walkQueue_of_legal legal),
      queued_of_exec_queueOrRaise runBounded (walkQueue_filter_of_legal _ _ legal)⟩
  · refine ⟨raised_of_exec_queueOrRaise run (walkQueue_of_illegal illegal),
      raised_of_exec_queueOrRaise runBounded ?_⟩
    rw [walkQueue_of_illegal illegal]
    rfl

/-- R197: the first pending cell goes to `rd`. -/
theorem exec_wnext_of_cons {s : State} {c : Cell} {rest : List Cell} (rd : Reg)
    (pending : s.wq = c :: rest) :
    exec (.wnext rd) s = .next ((s.setWq rest).deliver rd (c.cy ++ c.cx) .ok) := by
  simp only [exec, execWnext, pending, packCell]

theorem exec_wnext_of_nil {s : State} (rd : Reg) (empty : s.wq = []) :
    exec (.wnext rd) s = .next s.endOfWalk := by
  simp only [exec, execWnext, empty]

/-- Settles O59, by whether a cell is pending. -/
theorem nextCellResults : Obligations.NextCellResults := by
  intro s rd
  refine ⟨⟨rfl, rfl⟩, fun c rest pending => ?_, fun empty => ?_⟩
  · exact ⟨_, exec_wnext_of_cons rd pending, deliver_ended rd _ .ok (fun _ => rfl) rfl rfl rfl rfl⟩
  · rw [← empty]
    exact ⟨_, exec_wnext_of_nil rd empty, raise_raised s .walkEnd⟩

end Sys2Proof.Machine

/-! The system command of `45_system.md`: the value that reading `FSR` gives, and what `RDFSR` leaves. -/

namespace Sys2Proof.Machine

/-- R26, R210: the mask splits into bit 0, which is 0, and the six sticky bits above it. -/
theorem State.fsrRead_toNat (s : State) : s.fsrRead.toNat = s.fsr.toNat / 2 % 64 * 2 := by
  have masked : s.fsrRead.toNat = s.fsr.toNat &&& 126 := BitVec.toNat_and ..
  have bit0 : (s.fsr.toNat &&& 126) % 2 = 0 := by
    rw [Nat.and_mod_two_pow (n := 1), Nat.and_zero]
  have sticky : (s.fsr.toNat &&& 126) / 2 = s.fsr.toNat / 2 % 64 := by
    rw [Nat.and_div_two, ← Nat.and_two_pow_sub_one_eq_mod _ 6]
  omega

/-- R210: zero-extending the masked register gives the pattern of that number. -/
theorem State.fsrRead_zeroExtend (s : State) :
    s.fsrRead.zeroExtend 64 = BitVec.ofNat 64 (s.fsr.toNat / 2 % 64 * 2) := by
  rw [← s.fsrRead_toNat, BitVec.ofNat_toNat, BitVec.zeroExtend]

theorem exec_rdfsr (s : State) (rd : Reg) :
    exec (.rdfsr rd) s = .next (s.deliver rd (s.fsrRead.zeroExtend 64) .ok) := rfl

/-- Settles O60: `RDFSR` is a delivery with status `OK`, and that status sets no bit of `FSR`. -/
theorem statusRegisterReadResult : Obligations.StatusRegisterReadResult := by
  intro s rd
  refine ⟨⟨rfl, rfl⟩, _, exec_rdfsr s rd, ?_⟩
  rw [s.fsrRead_zeroExtend]
  exact deliver_wrote s rd _ .ok

end Sys2Proof.Machine

/-! The configuration of `46_rom_tables.md`: nothing that the unit meets changes it (R215, R261). -/

namespace Sys2Proof.Machine

/-- R30: a command leaves the configuration alone, whichever way it ends. -/
theorem CommandEffect.cfg_kept {i : Instr} {s t : State} (h : CommandEffect i s t) :
    t.cfg = s.cfg := by
  cases h with
  | wrote _ ended | answered ended | seeded _ _ ended | drew _ _ _ _ ended | bounded _ ended
  | queued _ _ ended | popped _ _ _ ended => exact ended.cfg

theorem accept_cfg {p : Packet} {s t : State} (h : accept p s = .next t) : t.cfg = s.cfg := by
  obtain ⟨i, -, run⟩ | illegal := accept_cases h
  · exact (exec_effect run).cfg_kept
  · exact illegal.cfg

/-- R215, R261: neither a packet nor an assertion of reset changes the configuration. -/
theorem meet_cfg {e : HostEvent} {s t : State} (h : meet e s = .next t) : t.cfg = s.cfg := by
  cases e with
  | command p => exact accept_cfg h
  | reset | resetDuring =>
    cases h
    exact s.assertReset_cfg

/-- Settles O16, by whether the host has an event for the step to meet. -/
theorem configurationNeverChanges : Obligations.ConfigurationNeverChanges := by
  intro s t h
  cases host : s.host with
  | nil =>
    rw [step_of_idle host] at h
    cases h
    rfl
  | cons e rest =>
    rw [step_of_host host] at h
    exact meet_cfg (s := { s with host := rest }) h

end Sys2Proof.Machine


/-! The statuses of `60_exceptions.md`: which of them each command can end with (R240), that a fault
leaves nothing but its bit of `FSR` (R231), and that the bits stay until reset (R232). -/

namespace Sys2Proof.Machine

/-! ### A status is recorded, and its bit stays (R232) -/

/-- R232: an accepted packet appended one response, and `FSR` took the bit of its status. -/
def Recorded (s t : State) : Prop :=
  ∃ st d, t.responses = s.responses ++ [{ status := st, data := d }] ∧
    ∀ n, n < 8 → t.fsr.getLsbD n = (s.fsr.getLsbD n ||
      (decide (1 ≤ n) && decide (n ≤ 6) && decide ((statusCode st).toNat = n)))

section recorded
variable {s t : State}

theorem Ended.recorded {st : Status} {d : Word} {write : Option (Reg × Word)} {rng : Word32}
    {grid : Word32 × Word32} {wq : List Cell} (h : Ended s t st d write rng grid wq) : Recorded s t :=
  ⟨st, d, h.responses, h.fsr⟩

theorem CommandEffect.recorded {i : Instr} (h : CommandEffect i s t) : Recorded s t := by
  cases h with
  | wrote _ ended | answered ended | seeded _ _ ended | drew _ _ _ _ ended | bounded _ ended
  | queued _ _ ended | popped _ _ _ ended => exact ended.recorded

theorem accept_recorded {p : Packet} (h : accept p s = .next t) : Recorded s t := by
  obtain ⟨i, -, run⟩ | illegal := accept_cases h
  · exact (exec_effect run).recorded
  · exact illegal.recorded

/-- R26: recording a status clears no bit. -/
theorem Recorded.fsr_kept (h : Recorded s t) {n : Nat} (set : s.fsr.getLsbD n = true) :
    t.fsr.getLsbD n = true := by
  obtain ⟨st, d, -, fsr⟩ := h
  rw [fsr n (BitVec.lt_of_getLsbD set), set, Bool.true_or]

end recorded

/-- Settles O15: every way a packet can be answered records its status, and a step that is no reset
accepts a packet or is idle. -/
theorem statusIsRecordedUntilReset : Obligations.StatusIsRecordedUntilReset := by
  refine ⟨fun p s t h => accept_recorded h, fun s t noReset h n set => ?_⟩
  cases host : s.host with
  | nil =>
    rw [step_of_idle host] at h
    cases h
    exact set
  | cons e rest =>
    obtain ⟨p, rfl⟩ := noReset.event host
    rw [step_of_host host] at h
    exact (accept_recorded (s := { s with host := rest }) h).fsr_kept set

/-! ### Which statuses a computation raises (R240) -/

/-- A computation that may raise raises no status but those of the list. Finer than `FaultsOnly`, which
does not say which faults. -/
def RaisesOnly {α : Type} (errors : List Status) (r : Except Status α) : Prop :=
  ∀ st, r = .error st → st ∈ errors

section raises
variable {α β : Type} {errors : List Status} {r r' : Except Status α}

theorem RaisesOnly.ok {a : α} : RaisesOnly errors (.ok a) := fun _ => nofun

theorem RaisesOnly.error {st : Status} (listed : st ∈ errors) :
    RaisesOnly errors (.error st : Except Status α) := by
  rintro _ ⟨⟩
  exact listed

theorem RaisesOnly.ite {c : Prop} [Decidable c] (h : RaisesOnly errors r)
    (h' : RaisesOnly errors r') : RaisesOnly errors (if c then r else r') := by
  split
  · exact h
  · exact h'

theorem RaisesOnly.map {f : α → β} (h : RaisesOnly errors r) : RaisesOnly errors (r.map f) := by
  cases r with
  | ok a => exact .ok
  | error st => exact .error (h st rfl)

/-- R104: a zero denominator. -/
theorem fxFromFrac_raises (n d : Int) : RaisesOnly [.divisionByZero] (fxFromFrac n d) :=
  .ite (.error (.head _)) .ok

/-- R114: a zero divisor. -/
theorem fxDiv_raises (a b : Int) : RaisesOnly [.divisionByZero] (fxDiv a b) :=
  .ite (.error (.head _)) .ok

/-- R115: a zero divisor. -/
theorem fxMod_raises (a b : Int) : RaisesOnly [.divisionByZero] (fxMod a b) :=
  .ite (.error (.head _)) .ok

/-- R116: a zero bound, then a negative one. -/
theorem fxErem_raises (a ub : Int) : RaisesOnly [.divisionByZero, .precondition] (fxErem a ub) :=
  .ite (.error (.head _)) (.ite (.error (.tail _ (.head _))) (.ite .ok .ok))

/-- R121: a negative operand. -/
theorem fxSqrt_raises (a : Int) : RaisesOnly [.domainError] (fxSqrt a) :=
  .ite (.error (.head _)) .ok

/-- R142: a fractional exponent of a negative base, then a power of raw 0 to be inverted. -/
theorem fxPow_raises (x y : Int) : RaisesOnly [.domainError, .divisionByZero] (fxPow x y) :=
  .ite .ok (.ite .ok (.ite (.error (.head _)) (.ite (.ite (.error (.tail _ (.head _))) .ok) .ok)))

/-- R148: the origin. -/
theorem fxAtan2_raises (c : Cfg) (y x : Int) : RaisesOnly [.precondition] (fxAtan2 c y x) :=
  .ite (.ite .ok (.ite .ok (.error (.head _)))) (.ite (.ite .ok (.ite .ok .ok)) (.ite .ok .ok))

/-- R195: an illegal coordinate. -/
theorem walkQueue_raises (sx sy ex ey : Int) :
    RaisesOnly [.precondition] (walkQueue sx sy ex ey) :=
  .ite .ok (.error (.head _))

end raises

/-! ### The statuses of each command (R240) -/

/-- The command `i` ended from `s` in `t` with a status that R240 lists for it: it completed with one
that is no fault, or it raised one and changed nothing else (R231). -/
inductive ListedEnd (i : Instr) (s t : State) : Prop where
  /-- R233, R234: `OK`, `Saturated` or `WalkEnd`, with whatever the command may write. -/
  | completed {st : Status} {d : Word} {write : Option (Reg × Word)} {rng : Word32}
      {grid : Word32 × Word32} {wq : List Cell} (listed : st ∈ statusesOf i)
      (noFault : isFaultStatus st = false) (ended : Ended s t st d write rng grid wq)
  /-- R231: a status raised. -/
  | raised {st : Status} (listed : st ∈ statusesOf i) (ended : Raised s t st)

section listed
variable {i : Instr} {s t : State} {rd : Reg} {errors : List Status}

/-- R240: the statuses a command raises are listed before those it completes with. -/
theorem mem_of_raises {completes : List Status} (listed : statusesOf i = errors ++ completes)
    {st : Status} (mem : st ∈ errors) : st ∈ statusesOf i :=
  listed ▸ List.mem_append_left _ mem

theorem mem_of_completes {completes : List Status} (listed : statusesOf i = errors ++ completes)
    {st : Status} (mem : st ∈ completes) : st ∈ statusesOf i :=
  listed ▸ List.mem_append_right _ mem

theorem ListedEnd.of_deliver {v : Word} {st : Status} (listed : st ∈ statusesOf i)
    (noFault : isFaultStatus st = false) (h : (.next (s.deliver rd v st) : Result) = .next t) :
    ListedEnd i s t := by
  cases h
  exact .completed listed noFault (deliver_wrote s rd v st)

theorem ListedEnd.of_deliverOrRaise {r : Except Status Int} (raises : RaisesOnly errors r)
    (listed : statusesOf i = errors ++ [Status.ok])
    (h : (.next (s.deliverOrRaise rd r) : Result) = .next t) : ListedEnd i s t := by
  cases h
  obtain ⟨v, -, wrote⟩ | ⟨st, error, raised⟩ := deliverOrRaise_cases s rd r
  · exact .completed (mem_of_completes listed (.head _)) rfl wrote
  · exact .raised (mem_of_raises listed (raises st error)) raised

/-- R233: whether or not a result is clamped, its status is no fault. -/
theorem isFaultStatus_saturationStatus (clamped : Bool) :
    isFaultStatus (saturationStatus clamped) = false := by
  cases clamped <;> rfl

theorem saturationStatus_mem (clamped : Bool) :
    saturationStatus clamped ∈ [.saturated, .ok] := by
  cases clamped
  · exact .tail _ (.head _)
  · exact .head _

theorem ListedEnd.of_deliverPower {r : Except Status (Int × Bool)} (raises : RaisesOnly errors r)
    (listed : statusesOf i = errors ++ [Status.saturated, Status.ok])
    (h : (.next (s.deliverPower rd r) : Result) = .next t) : ListedEnd i s t := by
  cases h
  obtain ⟨p, -, wrote⟩ | ⟨st, error, raised⟩ := deliverPower_cases s rd r
  · exact .completed (mem_of_completes listed (saturationStatus_mem p.2))
      (isFaultStatus_saturationStatus p.2) wrote
  · exact .raised (mem_of_raises listed (raises st error)) raised

theorem ListedEnd.of_queueOrRaise {r : Except Status (List Cell)} (raises : RaisesOnly errors r)
    (listed : statusesOf i = errors ++ [Status.ok])
    (h : (.next (s.queueOrRaise r) : Result) = .next t) : ListedEnd i s t := by
  cases h
  obtain ⟨q, -, queued⟩ | ⟨st, error, raised⟩ := queueOrRaise_cases s r
  · exact .completed (mem_of_completes listed (.head _)) rfl queued
  · exact .raised (mem_of_raises listed (raises st error)) raised

theorem ListedEnd.of_sampleOrRaise {lo hi : Int} {D : Nat}
    (listed : statusesOf i = [Status.precondition, Status.invalidRange] ++ [Status.ok])
    (h : s.sampleOrRaise rd lo hi D = .next t) : ListedEnd i s t := by
  obtain ⟨-, eq⟩ | ⟨-, -, eq⟩ | ⟨-, -, v, x, -, eq⟩ | ⟨-, -, -, eq⟩ :=
    sampleOrRaise_cases s rd lo hi D <;> rw [eq] at h <;> cases h
  · exact .raised (mem_of_raises listed (.head _)) (raise_raised s .precondition)
  · exact .raised (mem_of_raises listed (.tail _ (.head _))) (raise_raised s .invalidRange)
  · exact .completed (mem_of_completes listed (.head _)) rfl (setRng_deliver_drew s rd _ _)

theorem execRandu32_listedEnd (h : execRandu32 rd s = .next t) : ListedEnd (.randu32 rd) s t := by
  unfold execRandu32 at h
  split at h
  · cases h
    exact .raised (.head _) (raise_raised s .precondition)
  · cases h
    exact .completed (.tail _ (.head _)) rfl (setRng_deliver_drew s rd _ _)

/-- R234: the end of a walk is no fault. -/
theorem execWnext_listedEnd (h : execWnext rd s = .next t) : ListedEnd (.wnext rd) s t := by
  unfold execWnext at h
  split at h
  · cases h
    exact .completed (.head _) rfl (raise_raised s .walkEnd)
  · cases h
    exact .completed (.tail _ (.head _)) rfl
      (deliver_ended rd _ .ok (fun _ => rfl) rfl rfl rfl rfl)

/-- The response of a command is the one it appended, so its status is listed, and a fault status was
raised. -/
theorem ListedEnd.status (h : ListedEnd i s t) {st : Status} {d : Word}
    (response : t.responses = s.responses ++ [{ status := st, data := d }]) :
    st ∈ statusesOf i ∧ (isFaultStatus st = true → Raised s t st) := by
  cases h with
  | completed listed noFault ended =>
    cases List.append_cancel_left (ended.responses.symm.trans response)
    exact ⟨listed, fun fault => absurd (noFault.symm.trans fault) Bool.false_ne_true⟩
  | raised listed ended =>
    cases List.append_cancel_left (ended.responses.symm.trans response)
    exact ⟨listed, fun _ => ended⟩

end listed

/-- R240: every command that has a next state ended with a status listed for it. -/
theorem exec_listedEnd {i : Instr} {s t : State} (h : exec i s = .next t) : ListedEnd i s t := by
  cases i with
  | ldi | mov | fromint | toint | add | sub | mul | floor | ceil | round | abs | shli | shri
  | samesign | cmp | cos | sin | torad | rngget | rdfsr =>
    exact .of_deliver (.head _) rfl h
  | exp => exact .of_deliver (saturationStatus_mem _) (isFaultStatus_saturationStatus _) h
  | fromfrac => exact .of_deliverOrRaise (fxFromFrac_raises _ _) rfl h
  | div => exact .of_deliverOrRaise (fxDiv_raises _ _) rfl h
  | mod => exact .of_deliverOrRaise (fxMod_raises _ _) rfl h
  | erem => exact .of_deliverOrRaise (fxErem_raises _ _) rfl h
  | sqrt => exact .of_deliverOrRaise (fxSqrt_raises _) rfl h
  | atan2 => exact .of_deliverOrRaise (fxAtan2_raises _ _ _) rfl h
  | pow => exact .of_deliverPower (fxPow_raises _ _) rfl h
  | seed | setgrid =>
    cases h
    exact .completed (.head _) rfl (complete_ended (fun _ => rfl) rfl rfl rfl rfl)
  | randu32 => exact execRandu32_listedEnd h
  | randi32 | randi64 => exact .of_sampleOrRaise rfl h
  | walk => exact .of_queueOrRaise (walkQueue_raises _ _ _ _) rfl h
  | walkb => exact .of_queueOrRaise (walkQueue_raises _ _ _ _).map rfl h
  | wnext => exact execWnext_listedEnd h

/-- Settles O19, by the status with which the command ended. -/
theorem statusesOfEachCommand : Obligations.StatusesOfEachCommand := by
  intro i s t st d h response
  exact ((exec_listedEnd h).status response).1

/-- Settles O18: a command with a fault status has raised it, and so has a packet that is no command. -/
theorem faultChangesNothingElse : Obligations.FaultChangesNothingElse := by
  intro p s t st d h response fault
  obtain ⟨i, -, run⟩ | illegal := accept_cases h
  · exact ((exec_listedEnd run).status response).2 fault
  · cases List.append_cancel_left (illegal.responses.symm.trans response)
    exact illegal

end Sys2Proof.Machine

/-! The termination of `70_reset_and_hazards.md` R265: the sampling commands complete from every seeded
state, so that a command is refused only from an engine word that no run reaches (log 10). -/

namespace Sys2Proof.Machine

/-! ### The sampling commands complete (R265) -/

/-- R27: a state is seeded when its engine word is neither 0 nor above those that the engine gives. -/
theorem State.seeded_iff_running (s : State) :
    s.seeded ↔ s.rng ≠ 0 ∧ s.rng.toNat ≤ 2147483646 := by
  have running : 1 ≤ s.rng.toNat ↔ s.rng ≠ 0 := by
    rw [Nat.one_le_iff_ne_zero, Ne, Ne, ← BitVec.toNat_inj]
    rfl
  exact and_congr_left' running

section sampling
variable {i : Instr} {s : State} {rd : Reg} {lo hi : Int} {D : Nat}

/-- R265: from a seeded state a sampling command whose bounds are in order has a draw, and makes it. -/
theorem drew_of_exec_sample_seeded (run : exec i s = s.sampleOrRaise rd lo hi D)
    (width : D = 32 ∨ D = 64) (seeded : s.seeded) (order : lo ≤ hi) :
    ∃ t v r, uniform lo hi D s.rng.toNat = some (v, r) ∧
      exec i s = .next t ∧ Drew s t rd (u64 v) (BitVec.ofNat 32 r) := by
  obtain ⟨v, r, draw⟩ := uniform_completes (lo := lo) (hi := hi) width seeded
  obtain ⟨running, -⟩ := s.seeded_iff_running.1 seeded
  obtain ⟨t, next, drew⟩ := drew_of_exec_sample run running order draw
  exact ⟨t, v, r, draw, next, drew⟩

/-- The sampler is refused only where the draw does not end, which no legal engine word allows. -/
theorem sampleOrRaise_has_next_or_refused (s : State) (rd : Reg) (lo hi : Int)
    (width : D = 32 ∨ D = 64) :
    (∃ t, s.sampleOrRaise rd lo hi D = .next t) ∨
    (2147483646 < s.rng.toNat ∧ s.sampleOrRaise rd lo hi D = .refused .samplerFuelExhausted) := by
  obtain ⟨-, eq⟩ | ⟨-, -, eq⟩ | ⟨-, -, v, r, -, eq⟩ | ⟨running, -, endless, refused⟩ :=
    sampleOrRaise_cases s rd lo hi D
  · exact .inl ⟨_, eq⟩
  · exact .inl ⟨_, eq⟩
  · exact .inl ⟨_, eq⟩
  · refine .inr ⟨Nat.lt_of_not_le fun below => ?_, refused⟩
    have seeded : s.seeded := s.seeded_iff_running.2 ⟨running, below⟩
    obtain ⟨v, r, draw⟩ := uniform_completes (lo := lo) (hi := hi) width seeded
    cases endless.symm.trans draw

end sampling

/-- Settles O52: the draw of a seeded state, for the two widths. -/
theorem seededDrawsComplete : Obligations.SeededDrawsComplete := by
  intro s rd rs1 rs2 seeded
  exact ⟨drew_of_exec_sample_seeded (exec_randi32 s rd rs1 rs2) (.inl rfl) seeded,
    drew_of_exec_sample_seeded (exec_randi64 s rd rs1 rs2) (.inr rfl) seeded⟩

/-! ### Every command is answered (R238, R265) -/

/-- R173: `RANDU32` raises or draws. -/
theorem exec_randu32_has_next (s : State) (rd : Reg) : ∃ t, exec (.randu32 rd) s = .next t := by
  by_cases unseeded : s.rng = 0
  · exact ⟨_, exec_randu32_of_unseeded rd unseeded⟩
  · exact ⟨_, exec_randu32_of_running rd unseeded⟩

/-- R197: `WNEXT` takes a cell or finds the end of the walk. -/
theorem exec_wnext_has_next (s : State) (rd : Reg) : ∃ t, exec (.wnext rd) s = .next t := by
  cases queue : s.wq with
  | nil => exact ⟨_, exec_wnext_of_nil rd queue⟩
  | cons c rest => exact ⟨_, exec_wnext_of_cons rd queue⟩

/-- Every command but the two samplers has a next state in every state. -/
theorem exec_has_next_of_not_sampler {i : Instr} (s : State) (bounded : isSampler i = false) :
    ∃ t, exec i s = .next t := by
  cases i with
  | ldi | mov | fromint | toint | fromfrac | add | sub | mul | div | mod | erem | floor | ceil | round
  | abs | sqrt | shli | shri | samesign | cmp | pow | exp | cos | sin | atan2 | torad | seed | rngget
  | setgrid | walk | walkb | rdfsr => exact ⟨_, rfl⟩
  | randu32 rd => exact exec_randu32_has_next s rd
  | wnext rd => exact exec_wnext_has_next s rd
  | randi32 | randi64 => cases bounded

/-- R265: a sampling command has one too, but from an engine word that no run reaches. -/
theorem exec_sampler_has_next_or_refused {i : Instr} (s : State) (sampler : isSampler i = true) :
    (∃ t, exec i s = .next t) ∨
    (2147483646 < s.rng.toNat ∧ exec i s = .refused .samplerFuelExhausted) := by
  cases i with
  | randi32 rd rs1 rs2 =>
    exact sampleOrRaise_has_next_or_refused s rd (s.xI32 rs1) (s.xI32 rs2) (.inl rfl)
  | randi64 rd rs1 rs2 =>
    exact sampleOrRaise_has_next_or_refused s rd (s.x rs1) (s.x rs2) (.inr rfl)
  | _ => cases sampler

/-- Settles O10, by whether the command samples. -/
theorem everyCommandIsAnswered : Obligations.EveryCommandIsAnswered := by
  intro i s
  cases sampler : isSampler i with
  | false => exact .inl (exec_has_next_of_not_sampler s sampler)
  | true =>
    obtain next | ⟨above, refused⟩ := exec_sampler_has_next_or_refused s sampler
    · exact .inl next
    · exact .inr ⟨rfl, above, refused⟩

end Sys2Proof.Machine

/-! The power of `42_transcendental.md` (R141, R142): what `POW` leaves in `rd`, and its results with the
bases 1.0 and 2.0. -/

namespace Sys2Proof.Machine

/-! ### Shifts and clamps (R10) -/

theorem asr_12 (v : Int) : asr v 12 = v / 4096 := by
  norm_num [asr]

/-- R10: a value that fits is its own clamp. -/
theorem clamp64_of_bounds {v : Int} (lo : kMin ≤ v) (hi : v ≤ kMax) : clamp64 v = v := by
  rw [clamp64, if_neg (by omega), if_neg (by omega)]

theorem clamp64_of_gt {v : Int} (h : kMax < v) : clamp64 v = kMax := if_pos h

theorem clamp64_of_lt {v : Int} (h : v < kMin) : clamp64 v = kMin := by
  have order : kMin < kMax := by decide
  rw [clamp64, if_neg (by omega), if_pos h]

theorem clamped64_of_bounds {v : Int} (lo : kMin ≤ v) (hi : v ≤ kMax) : clamped64 v = false := by
  rw [clamped64, clamp64_of_bounds lo hi, decide_eq_false_iff_not, not_not]

theorem clamped64_of_gt {v : Int} (h : kMax < v) : clamped64 v = true := by
  rw [clamped64, clamp64_of_gt h, decide_eq_true_iff]
  exact h.ne

theorem clamped64_of_lt {v : Int} (h : v < kMin) : clamped64 v = true := by
  rw [clamped64, clamp64_of_lt h, decide_eq_true_iff]
  exact h.ne'

/-! ### Power by cases (R142) -/

theorem exec_pow (s : State) (rd rs1 rs2 : Reg) : exec (.pow rd rs1 rs2) s =
    .next (s.deliverPower rd (fxPow (s.x rs1) (s.x rs2))) := rfl

section power
variable {x y : Int}

theorem fxPow_zero_exponent (x : Int) : fxPow x 0 = .ok (one, false) := if_pos rfl

theorem fxPow_zero_base (h : y ≠ 0) : fxPow 0 y = .ok (0, false) := by
  rw [fxPow, if_neg h, if_pos rfl]

/-- R142: a fractional exponent is not 0, so a negative base with one is the third case. -/
theorem fxPow_fraction_of_neg (negative : x < 0) (fraction : y.natAbs % 4096 ≠ 0) :
    fxPow x y = .error .domainError := by
  have nonzero : y ≠ 0 := by
    rintro rfl
    exact fraction rfl
  rw [fxPow, if_neg nonzero, if_neg negative.ne, if_pos ⟨fraction, negative⟩]

/-- R142: past the special cases the power for `|y|` is inverted for a negative exponent. -/
theorem fxPow_regular (base : x ≠ 0) (exponent : y ≠ 0) (real : 0 < x ∨ y.natAbs % 4096 = 0) :
    fxPow x y =
      if y < 0 then
        if (powPositive x y.natAbs).1 = 0 then .error .divisionByZero
        else .ok (fxQuotient one (powPositive x y.natAbs).1, (powPositive x y.natAbs).2)
      else .ok (powPositive x y.natAbs) := by
  rw [fxPow, if_neg exponent, if_neg base, if_neg (by omega)]

end power

section endings
variable {i : Instr} {s : State} {rd : Reg} {r : Except Status (Int × Bool)}

theorem wrote_of_exec_deliverPower {v : Int} {clamped : Bool}
    (run : exec i s = .next (s.deliverPower rd r)) (value : r = .ok (v, clamped)) :
    ∃ t, exec i s = .next t ∧ Wrote s t rd (u64 v) (saturationStatus clamped) := by
  subst value
  exact ⟨_, run, deliver_wrote s rd (u64 v) _⟩

theorem raised_of_exec_deliverPower {st : Status} (run : exec i s = .next (s.deliverPower rd r))
    (error : r = .error st) : ∃ t, exec i s = .next t ∧ Raised s t st := by
  subst error
  exact ⟨_, run, raise_raised s st⟩

end endings

/-- Settles O34, by the cases of `Pow` in the order of R142. -/
theorem powerResults : Obligations.PowerResults := by
  intro s rd rs1 rs2
  have run := exec_pow s rd rs1 rs2
  refine ⟨⟨rfl, rfl⟩, fun zero => ?_, fun nonzero zero => ?_, fun negative fraction => ?_,
    fun exponent base real power clamped value => ?_⟩
  · exact wrote_of_exec_deliverPower run (by rw [zero, fxPow_zero_exponent])
  · exact wrote_of_exec_deliverPower run (by rw [zero, fxPow_zero_base nonzero])
  · exact raised_of_exec_deliverPower run (fxPow_fraction_of_neg negative fraction)
  · have regular := fxPow_regular base exponent real
    rw [value] at regular
    refine ⟨fun positive => ?_, fun negative inverse => ?_, fun negative zero => ?_⟩
    · exact wrote_of_exec_deliverPower run (regular.trans (if_neg (by omega)))
    · rw [if_pos negative, if_neg inverse] at regular
      have written := wrote_of_exec_deliverPower run regular
      rw [u64_fxQuotient] at written
      exact written
    · rw [if_pos negative, if_pos zero] at regular
      exact raised_of_exec_deliverPower run regular

/-! ### The powers of 1.0 (R142) -/

theorem smul_one_one : smul one one = (one, false) := by decide

/-- R121: the root of 1.0 is 1.0. -/
theorem fxRoot_one : fxRoot one = one := by decide

/-- R142: squaring 1.0 and multiplying by it changes nothing, in any number of rounds. -/
theorem powInteger_one (rounds n : Nat) (sat : Bool) :
    powInteger rounds n one one sat = (one, sat) := by
  induction rounds generalizing n sat with
  | zero => rfl
  | succ rounds ih => simp only [powInteger, smul_one_one, ite_self, Bool.or_false, ih]

/-- R142: nor do the fraction bits, whose roots of 1.0 are 1.0. -/
theorem powFraction_one (bits f : Nat) (sat : Bool) :
    powFraction bits f one one sat = (one, sat) := by
  induction bits generalizing sat with
  | zero => rfl
  | succ bit ih => simp only [powFraction, fxRoot_one, smul_one_one, ite_self, Bool.or_false, ih]

theorem powPositive_one (m : Nat) : powPositive one m = (one, false) := by
  simp only [powPositive, powInteger_one, powFraction_one]

/-- R142: 1.0 is its own reciprocal, so the sign of the exponent makes no difference. -/
theorem fxPow_one (y : Int) : fxPow one y = .ok (one, false) := by
  by_cases zero : y = 0
  · rw [zero, fxPow_zero_exponent]
  · have reciprocal : fxQuotient one one = one := by decide
    have nonzero : one ≠ 0 := by decide
    rw [fxPow_regular nonzero zero (.inl (by decide)), powPositive_one]
    simp only [reciprocal, nonzero, if_false, ite_self]

/-- Settles O35, by the loops' effect on 1.0. -/
theorem powersOfOne : Obligations.PowersOfOne := by
  intro s rd rs1 rs2 base
  exact wrote_of_exec_deliverPower (exec_pow s rd rs1 rs2) (by rw [base]; exact fxPow_one _)

/-! ### The powers of 2.0 (R142) -/

/-- The power of 2.0 with the exponent `k` as R141 gives it: exact, or `kMax` where that does not fit. -/
def powerOfTwo (k : Nat) : Int := clamp64 (2 ^ (k + 12))

theorem two_pow_le_kMax_iff (k : Nat) : (2 : Int) ^ (k + 12) ≤ kMax ↔ k ≤ 50 := by
  have width : (2 : Int) ^ (k + 12) < 2 ^ 63 ↔ k + 12 < 63 := pow_lt_pow_iff_right₀ (by decide)
  rw [kMax, Int.le_sub_one_iff, width]
  omega

theorem kMin_le_two_pow (k : Nat) : kMin ≤ 2 ^ k :=
  (show kMin ≤ 0 by decide).trans (by positivity)

theorem powerOfTwo_of_le {k : Nat} (h : k ≤ 50) : powerOfTwo k = 2 ^ (k + 12) :=
  clamp64_of_bounds (kMin_le_two_pow _) ((two_pow_le_kMax_iff k).2 h)

theorem powerOfTwo_of_gt {k : Nat} (h : 50 < k) : powerOfTwo k = kMax :=
  clamp64_of_gt (Int.not_le.1 (mt (two_pow_le_kMax_iff k).1 (Nat.not_le.2 h)))

theorem clamped64_two_pow (k : Nat) : clamped64 (2 ^ (k + 12)) = decide (50 < k) := by
  by_cases fits : k ≤ 50
  · rw [clamped64_of_bounds (kMin_le_two_pow _) ((two_pow_le_kMax_iff k).2 fits), eq_comm,
      decide_eq_false_iff_not]
    omega
  · rw [clamped64_of_gt (Int.not_le.1 (mt (two_pow_le_kMax_iff k).1 fits)), eq_comm,
      decide_eq_true_iff]
    omega

theorem one_le_powerOfTwo (k : Nat) : one ≤ powerOfTwo k := by
  by_cases fits : k ≤ 50
  · rw [powerOfTwo_of_le fits, pow_add]
    exact le_mul_of_one_le_left (by decide) (one_le_pow₀ (by decide))
  · rw [powerOfTwo_of_gt (by omega)]
    decide

/-- R141: two powers that fit are multiplied exactly before the clamp. -/
theorem smul_powerOfTwo_of_le {a b : Nat} (ha : a ≤ 50) (hb : b ≤ 50) :
    smul (powerOfTwo a) (powerOfTwo b) = (powerOfTwo (a + b), decide (50 < a + b)) := by
  have product : asr ((2 : Int) ^ (a + 12) * 2 ^ (b + 12)) 12 = 2 ^ (a + b + 12) := by
    have shape : (2 : Int) ^ (a + 12) * 2 ^ (b + 12) = 2 ^ (a + b + 12) * 2 ^ 12 := by ring
    rw [asr, shape, Int.mul_ediv_cancel _ (by decide)]
  rw [smul, powerOfTwo_of_le ha, powerOfTwo_of_le hb, product, clamped64_two_pow, powerOfTwo]

/-- R141: a product with `kMax` of a number that is at least 1.0 is `kMax` again. -/
theorem smul_kMax {v : Int} (h : one ≤ v) : (smul kMax v).1 = kMax := by
  have large : kMax ≤ asr (kMax * v) 12 := by
    have scaled : kMax * one ≤ kMax * v := mul_le_mul_of_nonneg_left h (by decide)
    rw [asr_12, Int.le_ediv_iff_mul_le (by decide)]
    exact scaled
  rcases large.eq_or_lt with same | above
  · rw [smul, ← same]
    decide
  · exact clamp64_of_gt above

theorem smul_comm (a b : Int) : smul a b = smul b a := by rw [smul, smul, Int.mul_comm]

/-- R141: the clamped powers of 2.0 multiply by adding their exponents. -/
theorem smul_powerOfTwo_fst (a b : Nat) :
    (smul (powerOfTwo a) (powerOfTwo b)).1 = powerOfTwo (a + b) := by
  by_cases ha : a ≤ 50
  · by_cases hb : b ≤ 50
    · rw [smul_powerOfTwo_of_le ha hb]
    · rw [smul_comm, powerOfTwo_of_gt (by omega : 50 < b), smul_kMax (one_le_powerOfTwo a),
        powerOfTwo_of_gt (by omega)]
  · rw [powerOfTwo_of_gt (by omega : 50 < a), smul_kMax (one_le_powerOfTwo b),
      powerOfTwo_of_gt (by omega)]

section loop
variable {a b : Nat} {sat : Bool}

/-- R142: a power past the 50th is only there when a multiplication clamped before, so the flag of a
product that does not fit is new or set already. -/
theorem or_smul_powerOfTwo_snd (ha : 50 < a → sat = true) (hb : 50 < b → sat = true) :
    (sat || (smul (powerOfTwo a) (powerOfTwo b)).2) = (sat || decide (50 < a + b)) := by
  cases sat with
  | true => rw [Bool.true_or, Bool.true_or]
  | false =>
    have fits : a ≤ 50 ∧ b ≤ 50 := ⟨by simpa using ha, by simpa using hb⟩
    rw [smul_powerOfTwo_of_le fits.1 fits.2]

/-- A flag that is set already where a power is past the 50th. -/
theorem or_decide_of_flagged (ha : 50 < a → sat = true) : (sat || decide (50 < a)) = sat := by
  cases sat with
  | true => rfl
  | false => exact decide_eq_false (by simpa using ha)

/-- A power past the 50th adds nothing to the flag where a later one is past it, too. -/
theorem or_decide_absorb {k : Nat} (h : 50 < a → sat = true ∨ 50 < k) :
    (sat || decide (50 < a) || decide (50 < k)) = (sat || decide (50 < k)) := by
  by_cases past : 50 < a
  · rcases h past with set | later
    · simp [set]
    · simp [later]
  · simp [past]

/-- R142: the value after a multiplication that a bit of the exponent may leave out. -/
theorem guarded_smul_fst (c : Prop) [Decidable c] (a b : Nat) :
    (if c then smul (powerOfTwo a) (powerOfTwo b) else (powerOfTwo a, false)).1 =
      powerOfTwo (a + if c then b else 0) := by
  split
  · exact smul_powerOfTwo_fst a b
  · rw [Nat.add_zero]

/-- R142: and the flag after it. -/
theorem or_guarded_smul_snd (c : Prop) [Decidable c] (ha : 50 < a → sat = true)
    (hb : 50 < b → sat = true) :
    (sat || (if c then smul (powerOfTwo a) (powerOfTwo b) else (powerOfTwo a, false)).2) =
      (sat || decide (50 < a + if c then b else 0)) := by
  split
  · exact or_smul_powerOfTwo_snd ha hb
  · rw [Nat.add_zero, or_decide_of_flagged ha, Bool.or_false]

/-- R142: repeated squaring sums the exponents that the bits of `n` select. -/
theorem halved_exponent (n a b : Nat) :
    a + (if n % 2 = 1 then b else 0) + n / 2 * (b + if n / 2 > 0 then b else 0) = a + n * b := by
  have bits : n * b = n / 2 * b + n / 2 * b + n % 2 * b := by
    rw [← Nat.add_mul, ← Nat.add_mul]
    congr 1
    omega
  have odd : (if n % 2 = 1 then b else 0) = n % 2 * b := by
    rcases Nat.mod_two_eq_zero_or_one n with h | h <;> simp [h]
  have more : n / 2 * (if n / 2 > 0 then b else 0) = n / 2 * b := by
    rcases Nat.eq_zero_or_pos (n / 2) with h | h <;> simp [h]
  rw [bits, odd, Nat.mul_add, more]
  omega

/-- R142: a square past the 50th power is only computed where the exponent still needs it. -/
theorem squared_exponent_flagged (n a : Nat) (hb : 50 < b → sat = true)
    (past : 50 < b + if n / 2 > 0 then b else 0) : sat = true ∨ 50 < a + n * b := by
  by_cases more : n / 2 > 0
  · have needed := (Nat.le_mul_of_pos_left _ more).trans
      ((Nat.le_add_left _ _).trans_eq (halved_exponent n a b))
    exact .inr (past.trans_le needed)
  · rw [if_neg more, Nat.add_zero] at past
    exact .inl (hb past)

/-- R142, the loop on powers of 2.0: the exponents add up, and the flag says that the last one is past
the 50th. -/
theorem powInteger_powerOfTwo (rounds n a b : Nat) (sat : Bool) (enough : n < 2 ^ rounds)
    (ha : 50 < a → sat = true) (hb : 50 < b → sat = true) :
    powInteger rounds n (powerOfTwo a) (powerOfTwo b) sat =
      (powerOfTwo (a + n * b), sat || decide (50 < a + n * b)) := by
  induction rounds generalizing n a b sat with
  | zero =>
    obtain rfl : n = 0 := by omega
    rw [powInteger, Nat.zero_mul, Nat.add_zero, or_decide_of_flagged ha]
  | succ rounds ih =>
    by_cases last : n = 0
    · rw [powInteger, if_pos last, last, Nat.zero_mul, Nat.add_zero, or_decide_of_flagged ha]
    · simp only [powInteger, if_neg last, guarded_smul_fst]
      have square := squared_exponent_flagged n a hb
      have product : a + (if n % 2 = 1 then b else 0) ≤ a + n * b :=
        (Nat.le_add_right _ _).trans_eq (halved_exponent n a b)
      rw [or_guarded_smul_snd _ ha hb, Bool.or_right_comm, or_guarded_smul_snd _ hb hb,
        ih _ _ _ _ (by omega) (fun past => by rw [decide_eq_true past, Bool.or_true])
          (fun past => by rw [decide_eq_true past, Bool.or_true, Bool.true_or]),
        halved_exponent, or_decide_absorb fun past => .inr (past.trans_le product),
        or_decide_absorb square]

end loop

/-- R142: an exponent without fraction bits leaves the power of the whole part. -/
theorem powFraction_zero (bits : Nat) (r res : Int) (sat : Bool) :
    powFraction bits 0 r res sat = (res, sat) := by
  cases bits with
  | zero => rw [powFraction]
  | succ bit => rw [powFraction, if_pos (Nat.zero_mod _)]

/-- R142: the 52 rounds of `POW` cover every integer exponent that a FixedPoint holds. -/
theorem powPositive_two {n : Nat} (small : n < 2 ^ 52) :
    powPositive 8192 (n * 4096) = (powerOfTwo n, decide (50 < n)) := by
  have whole : powInteger 52 n one 8192 false = (powerOfTwo n, decide (50 < n)) := by
    have loop := powInteger_powerOfTwo 52 n 0 1 false small nofun nofun
    rwa [Nat.zero_add, Nat.mul_one, Bool.false_or] at loop
  rw [powPositive, Nat.mul_div_cancel _ (by decide), Nat.mul_mod_left, whole, powFraction_zero]

theorem fxPow_two {n : Nat} (small : n < 2 ^ 52) :
    fxPow 8192 ((n : Int) * 4096) = .ok (powerOfTwo n, decide (50 < n)) := by
  rcases Nat.eq_zero_or_pos n with rfl | positive
  · decide
  · have magnitude : ((n : Int) * 4096).natAbs = n * 4096 := by omega
    rw [fxPow_regular (by decide) (by omega) (.inl (by decide)), if_neg (by omega), magnitude,
      powPositive_two small]

/-- Settles O36, by the clamped power that the loop leaves and its flag. -/
theorem powersOfTwo : Obligations.PowersOfTwo := by
  intro s rd rs1 rs2 n base exponent
  have small : n < 2 ^ 52 := by
    have fits := (s.x_fits rs2).2
    omega
  have written := wrote_of_exec_deliverPower (exec_pow s rd rs1 rs2)
    (by rw [base, exponent]; exact fxPow_two small)
  refine ⟨fun fits => ?_, fun large => ?_⟩
  · rw [powerOfTwo_of_le fits, decide_eq_false (by omega)] at written
    have pattern : u64 (2 ^ (n + 12)) = BitVec.ofNat 64 (2 ^ (n + 12)) := by
      rw [← u64_natCast, Nat.cast_pow, Nat.cast_ofNat]
    rw [← pattern]
    exact written
  · rw [powerOfTwo_of_gt large, decide_eq_true (by omega)] at written
    exact written

end Sys2Proof.Machine

/-! The exponential and the angle commands of `42_transcendental.md`: what `EXP`, `COS`, `SIN`, `ATAN2` and
`TORAD` leave in `rd`, the search of the tangent table, and the ranges of the angles. -/

namespace Sys2Proof.Machine

/-! ### The constraints of a configuration (R216) -/

/-- R216: the constraints that the results of `EXP`, `ATAN2` and `TORAD` rest on, by name. -/
structure MeetsConstraints (c : Cfg) : Prop where
  /-- R216 a: the tangent table has 512 entries. -/
  tanLength : c.tanTable.length = 512
  /-- R216 b: its entries rise. -/
  tanRising : strictlyRising c.tanTable = true
  /-- R216 d: one turn is positive. -/
  twoPi_pos : 0 < s64 c.kTwoPi
  /-- R216 e: a quarter turn is positive. -/
  halfPi_pos : 0 < s64 c.kHalfPi
  /-- R216 e: three quarters of a turn are less than one. -/
  threeQuarters : s64 c.kPi + s64 c.kHalfPi < s64 c.kTwoPi
  /-- R216 e: one turn has 42 bits. -/
  twoPi_lt : s64 c.kTwoPi < 2 ^ 42
  /-- R216 e: the largest first-quadrant angle is less than half a turn. -/
  lastAngle : 511 * s64 c.kHalfPi / 512 < s64 c.kPi
  /-- R216 f: the window of `EXP` reaches 0 from below. -/
  expInMin_nonpos : s64 c.expInMin ≤ 0
  /-- R216 f: and from above. -/
  expInMax_nonneg : 0 ≤ s64 c.expInMax

theorem meetsConstraints_of_valid {c : Cfg} (valid : cfgValid c = true) : MeetsConstraints c := by
  simp only [cfgValid, Bool.and_eq_true, decide_eq_true_eq] at valid
  obtain ⟨⟨⟨⟨⟨⟨⟨-, tan⟩, rising⟩, -⟩, positive⟩, ⟨⟨half, three⟩, turn⟩, last⟩, ⟨low, high⟩⟩, -⟩ :=
    valid
  exact ⟨tan, rising, positive, half, three, turn, last, low, high⟩

/-! ### Exponential (R143) -/

theorem exec_exp (s : State) (rd rs1 : Reg) : exec (.exp rd rs1) s =
    .next (s.deliver rd (u64 (fxExp s.cfg (s.x rs1)).1)
      (saturationStatus (fxExp s.cfg (s.x rs1)).2)) := rfl

/-- R143: `EXP` completes with the value and the flag of `Exp`. -/
theorem wrote_of_fxExp {s : State} {rs1 : Reg} {v : Int} {clamped : Bool} (rd : Reg)
    (value : fxExp s.cfg (s.x rs1) = (v, clamped)) :
    ∃ t, exec (.exp rd rs1) s = .next t ∧ Wrote s t rd (u64 v) (saturationStatus clamped) := by
  have written := wrote_of_exec_deliver (exec_exp s rd rs1)
  rwa [value] at written

section exponential
variable {c : Cfg} {x sum k : Int}

theorem fxExp_above (h : s64 c.expInMax < x) : fxExp c x = (kMax, true) := if_pos h

theorem fxExp_below (top : x ≤ s64 c.expInMax) (h : x < s64 c.expInMin) : fxExp c x = (0, false) := by
  rw [fxExp, if_neg (Int.not_lt.2 top), if_pos h]

theorem fxExp_inside (top : x ≤ s64 c.expInMax) (bottom : s64 c.expInMin ≤ x) :
    fxExp c x = expRescale (expSum c x) (expScale c x) := by
  rw [fxExp, if_neg (Int.not_lt.2 top), if_neg (Int.not_lt.2 bottom)]

theorem expRescale_up (h : 0 ≤ k) :
    expRescale sum k = (clamp64 (sum * 2 ^ k.toNat), clamped64 (sum * 2 ^ k.toNat)) := if_pos h

theorem expRescale_down (h : k < 0) (short : -64 < k) :
    expRescale sum k = (sum / 2 ^ (-k).toNat, false) := by
  rw [expRescale, if_neg (by omega), if_neg (by omega), asr]

theorem expRescale_out (h : k ≤ -64) : expRescale sum k = (0, false) := by
  rw [expRescale, if_neg (by omega), if_pos (by omega)]

end exponential

/-- Settles O37, by the window and, inside it, by the rescaling of the sum. -/
theorem exponentialResults : Obligations.ExponentialResults := by
  intro s rd rs1
  refine ⟨⟨rfl, rfl⟩, fun above => wrote_of_fxExp rd (fxExp_above above),
    fun top below => wrote_of_fxExp rd (fxExp_below top below), fun top bottom sum k hsum hk => ?_⟩
  have inside := fxExp_inside top bottom
  rw [hsum, hk] at inside
  refine ⟨fun up high low => ?_, fun up high => ?_, fun up low => ?_, fun down short => ?_,
    fun out => ?_⟩
  · rw [expRescale_up up, clamp64_of_bounds low high, clamped64_of_bounds low high] at inside
    exact wrote_of_fxExp rd inside
  · rw [expRescale_up up, clamp64_of_gt high, clamped64_of_gt high] at inside
    exact wrote_of_fxExp rd inside
  · rw [expRescale_up up, clamp64_of_lt low, clamped64_of_lt low] at inside
    exact wrote_of_fxExp rd inside
  · exact wrote_of_fxExp rd (inside.trans (expRescale_down down short))
  · exact wrote_of_fxExp rd (inside.trans (expRescale_out out))

/-- R143: at 0 the power of two to rescale by is the 0th, whatever the constants. -/
theorem expScale_zero (c : Cfg) : expScale c 0 = 0 := by
  have product : fxMul 0 (s64 c.kInvLn2) = 0 := by
    rw [fxMul, Int.zero_mul]
    rfl
  rw [expScale, product]
  decide

/-- R143: nor is the argument reduced. -/
theorem expReduced_zero (c : Cfg) : expReduced c 0 = 0 := by
  rw [expReduced, expScale_zero, Int.zero_mul]
  rfl

/-- R143: at 0 the first term is 0, and the series is left with the sum it began with. -/
theorem expSeries_zero (count i : Nat) (sum term : Int) : expSeries 0 count i sum term = sum := by
  cases count with
  | zero => rw [expSeries]
  | succ count =>
    have next : fxQuotient (fxMul term 0) (fxFromInt i) = 0 := by
      rw [fxMul, Int.mul_zero, show wrap64 (asr 0 12) = 0 from rfl, fxQuotient, tdiv, Int.zero_mul,
        Int.zero_tdiv]
      rfl
    rw [expSeries, next, if_pos rfl]

/-- R143, R216 f: 0 is inside the window, and its exponential is 1.0. -/
theorem fxExp_zero {c : Cfg} (h : MeetsConstraints c) : fxExp c 0 = (one, false) := by
  rw [fxExp_inside h.expInMax_nonneg h.expInMin_nonpos, expScale_zero, expSum, expReduced_zero,
    expSeries_zero]
  decide

/-- Settles O38, by the value of `Exp` at 0. -/
theorem exponentialOfZero : Obligations.ExponentialOfZero := by
  intro s rd rs1 valid zero
  have value := fxExp_zero (meetsConstraints_of_valid valid)
  rw [← zero] at value
  exact wrote_of_fxExp rd value

/-! ### Cosine and sine (R144 to R146) -/

theorem exec_cos (s : State) (rd rs1 : Reg) : exec (.cos rd rs1) s =
    .next (s.deliver rd (u64 (fxCos s.cfg (s.x rs1))) .ok) := rfl

theorem exec_sin (s : State) (rd rs1 : Reg) : exec (.sin rd rs1) s =
    .next (s.deliver rd (u64 (fxSin s.cfg (s.x rs1))) .ok) := rfl

/-- R52: the pattern of what a table reads as is its entry. -/
theorem u64_tableRead (table : List Word) (i : Nat) : u64 (tableRead table i) = table.getD i 0 :=
  u64_s64 _

theorem u64_fxCos (c : Cfg) (a : Int) : u64 (fxCos c a) = c.cosTable.getD (trigIndex c a) 0 :=
  u64_tableRead _ _

theorem u64_fxSin (c : Cfg) (a : Int) : u64 (fxSin c a) =
    if a < 0 then -c.sinTable.getD (trigIndex c a) 0 else c.sinTable.getD (trigIndex c a) 0 := by
  rw [fxSin]
  split
  · rw [u64_neg64, u64_tableRead]
  · rw [u64_tableRead]

/-- R144: the index is that of the absolute angle. -/
theorem trigIndex_neg (c : Cfg) (a : Int) : trigIndex c (-a) = trigIndex c a := by
  rw [trigIndex, Int.natAbs_neg, trigIndex]

/-- Settles O39, by the patterns that the two commands deliver. -/
theorem cosineAndSineResults : Obligations.CosineAndSineResults := by
  intro s rd rs1 k index
  have cosine := wrote_of_exec_deliver (exec_cos s rd rs1)
  have sine := wrote_of_exec_deliver (exec_sin s rd rs1)
  have same : trigIndex s.cfg (s.x rs1) = k := index.symm
  rw [u64_fxCos, same] at cosine
  rw [u64_fxSin, same] at sine
  exact ⟨⟨⟨rfl, rfl⟩, cosine⟩, ⟨rfl, rfl⟩, sine⟩

/-- Settles O40: the index is the same, and exactly one of `a` and `-a` is negated. -/
theorem cosineEvenSineOdd : Obligations.CosineEvenSineOdd := by
  intro c a
  refine ⟨by rw [fxCos, trigIndex_neg, fxCos], fun nonzero => ?_⟩
  rw [u64_fxSin, u64_fxSin, trigIndex_neg]
  rcases Int.lt_or_gt_of_ne nonzero with negative | positive
  · rw [if_neg (by omega), if_pos negative, BitVec.neg_neg]
  · rw [if_pos (by omega), if_neg (by omega)]

/-! ### The search of the tangent table (R147) -/

/-- R147: what makes `k` the answer of a search for `r` among the first `n` entries of a table: no later
one is at most `r`, and its own is unless none is. -/
structure LastAtMost (entry : Nat → Int) (r : Int) (n k : Nat) : Prop where
  /-- The answer is an index of those entries, or 0. -/
  index : k = 0 ∨ k < n
  /-- Its entry is at most `r`, or the answer is 0. -/
  atMost : k = 0 ∨ entry k ≤ r
  /-- Every later entry is greater. -/
  later : ∀ j, k < j → j < n → r < entry j

section search
variable {entry : Nat → Int} {r : Int} {n k k' : Nat}

theorem LastAtMost.le (h : LastAtMost entry r n k) {j : Nat} (index : j < n) (atMost : entry j ≤ r) :
    j ≤ k :=
  Nat.not_lt.1 fun later => Int.not_le.2 (h.later j later index) atMost

theorem LastAtMost.answer_le (h : LastAtMost entry r n k) (h' : LastAtMost entry r n k') : k' ≤ k := by
  by_cases zero : k' = 0
  · omega
  · exact h.le (h'.index.resolve_left zero) (h'.atMost.resolve_left zero)

theorem LastAtMost.unique (h : LastAtMost entry r n k) (h' : LastAtMost entry r n k') : k = k' :=
  Nat.le_antisymm (h'.answer_le h) (h.answer_le h')

theorem lastAtMost_none (entry : Nat → Int) (r : Int) : LastAtMost entry r 0 0 :=
  ⟨.inl rfl, .inl rfl, fun _ _ h => absurd h (Nat.not_lt_zero _)⟩

/-- R147: one more entry is the answer if it is at most `r`. -/
theorem LastAtMost.succ (h : LastAtMost entry r n k) :
    LastAtMost entry r (n + 1) (if entry n ≤ r then n else k) := by
  split
  next fits => exact ⟨.inr n.lt_succ_self, .inr fits, fun j after before => by omega⟩
  next fits =>
    refine ⟨h.index.imp_right Nat.lt_succ_of_lt, h.atMost, fun j after before => ?_⟩
    rcases Nat.lt_succ_iff_lt_or_eq.1 before with earlier | rfl
    · exact h.later j after earlier
    · exact Int.not_le.1 fits

/-- R147: the pass over the entries from the index `n` on takes the answer for those before it to the
answer for all. -/
theorem LastAtMost.pass {table : List Word} (h : LastAtMost entry r n k)
    (entries : ∀ i, entry (n + i) = tableRead table i) :
    LastAtMost entry r (n + table.length) (lastAtMost r table n k) := by
  induction table generalizing n k with
  | nil => exact h
  | cons t rest ih =>
    have first : entry n = s64 t := entries 0
    have others : ∀ i, entry (n + 1 + i) = tableRead rest i := fun i => by
      rw [Nat.add_right_comm]
      exact entries (i + 1)
    have all := ih h.succ others
    rw [first, Nat.add_right_comm] at all
    exact all

/-- R147: a probe between the bounds of an answer halves their distance and keeps them bounds. -/
theorem LastAtMost.of_tanProbe {c : Cfg} {rounds lo hi : Nat} (width : hi = lo + 2 ^ rounds)
    (inside : hi ≤ n) (low : lo = 0 ∨ tableRead c.tanTable lo ≤ r)
    (high : ∀ j, hi ≤ j → j < n → r < tableRead c.tanTable j) (sorted : ∀ i j, i < j → j < n →
      tableRead c.tanTable i < tableRead c.tanTable j) :
    LastAtMost (tableRead c.tanTable) r n (tanProbe c r rounds lo hi) := by
  induction rounds generalizing lo hi with
  | zero =>
    rw [tanProbe]
    exact ⟨.inr (by omega), low, fun j after => high j (by omega)⟩
  | succ rounds ih =>
    have apart := Nat.two_pow_pos rounds
    have middle : (lo + hi) / 2 = lo + 2 ^ rounds := by omega
    rw [tanProbe, middle]
    split
    next fits => exact ih (by omega) inside (.inr fits) high
    next fits =>
      refine ih rfl (by omega) low fun j after before => ?_
      rcases after.eq_or_lt with rfl | greater
      · exact Int.not_le.1 fits
      · exact (Int.not_le.1 fits).trans (sorted _ j greater before)

end search

/-- R216 b: a strictly rising table is one whose entries are sorted. -/
theorem pairwise_of_strictlyRising {table : List Word} (h : strictlyRising table = true) :
    table.Pairwise fun a b => s64 a < s64 b := by
  have trans : IsTrans Word fun a b => s64 a < s64 b := ⟨fun _ _ _ => lt_trans⟩
  rw [← List.isChain_iff_pairwise]
  induction table using strictlyRising.induct with
  | case1 => exact .nil
  | case2 a => exact .singleton a
  | case3 a b rest ih =>
    rw [strictlyRising, Bool.and_eq_true, decide_eq_true_iff] at h
    exact .cons_cons h.1 (ih h.2)

theorem tableRead_lt_of_strictlyRising {table : List Word} (h : strictlyRising table = true) {i j : Nat}
    (order : i < j) (index : j < table.length) : tableRead table i < tableRead table j := by
  rw [tableRead, tableRead, List.getD_eq_getElem _ _ (order.trans index), List.getD_eq_getElem _ _ index]
  exact List.pairwise_iff_getElem.1 (pairwise_of_strictlyRising h) i j _ index order

section tangent
variable {c : Cfg} (h : MeetsConstraints c) (r : Int)
include h

/-- R147: the search that defines `ATAN2` answers the last index. -/
theorem lastAtMost_tanSearch : LastAtMost (tableRead c.tanTable) r 512 (tanSearch c r) := by
  have all := (lastAtMost_none (tableRead c.tanTable) r).pass (table := c.tanTable)
    fun i => by rw [Nat.zero_add]
  rw [Nat.zero_add, h.tanLength] at all
  rwa [tanSearch, List.take_of_length_le h.tanLength.le]

/-- R147: and so does the search by bisection. -/
theorem lastAtMost_tanBinarySearch :
    LastAtMost (tableRead c.tanTable) r 512 (tanBinarySearch c r) :=
  .of_tanProbe rfl (le_refl 512) (.inl rfl) (fun j after before => by omega) fun i j order index =>
    tableRead_lt_of_strictlyRising h.tanRising order (by rwa [h.tanLength])

theorem tanSearch_le : tanSearch c r ≤ 511 := by
  have := (lastAtMost_tanSearch h r).index
  omega

end tangent

/-- Settles O41, by what makes an index the last one. -/
theorem tangentSearchIsTheLargestIndex : Obligations.TangentSearchIsTheLargestIndex := by
  intro c r valid
  have constraints := meetsConstraints_of_valid valid
  have last := lastAtMost_tanSearch constraints r
  have largest : ∀ j, j ≤ 511 → tableRead c.tanTable j ≤ r → j ≤ tanSearch c r :=
    fun j index => last.le (by omega)
  refine ⟨tanSearch_le constraints r, largest, fun ⟨j, index, atMost⟩ => ?_, fun greater => ?_⟩
  · rcases last.atMost with zero | answer
    · obtain rfl : j = 0 := by
        have := largest j index atMost
        omega
      rwa [zero]
    · exact answer
  · exact last.atMost.resolve_right (Int.not_le.2 (greater _ (tanSearch_le constraints r)))

/-- Settles O42: both searches answer the last index, and there is only one. -/
theorem binarySearchFindsTheIndex : Obligations.BinarySearchFindsTheIndex := by
  intro c r valid
  have constraints := meetsConstraints_of_valid valid
  exact (lastAtMost_tanBinarySearch constraints r).unique (lastAtMost_tanSearch constraints r)

/-! ### Arctangent (R148) -/

theorem exec_atan2 (s : State) (rd rs1 rs2 : Reg) : exec (.atan2 rd rs1 rs2) s =
    .next (s.deliverOrRaise rd (fxAtan2 s.cfg (s.x rs1) (s.x rs2))) := rfl

section arctangent
variable {c : Cfg} {x y : Int}

theorem fxAtan2_origin (c : Cfg) : fxAtan2 c 0 0 = .error .precondition := rfl

theorem fxAtan2_up (hy : 0 < y) : fxAtan2 c y 0 = .ok (s64 c.kHalfPi) := by
  rw [fxAtan2, if_pos rfl, if_pos hy]

theorem fxAtan2_down (hy : y < 0) : fxAtan2 c y 0 = .ok (s64 c.kPi + s64 c.kHalfPi) := by
  rw [fxAtan2, if_pos rfl, if_neg (by omega), if_pos hy]

theorem fxAtan2_first (hx : 0 < x) (hy : 0 ≤ y) : fxAtan2 c y x = .ok (atanAngle c y x) := by
  rw [fxAtan2, if_neg (by omega), if_pos hx, if_pos hy]

theorem fxAtan2_second (hx : x < 0) (hy : 0 ≤ y) :
    fxAtan2 c y x = .ok (s64 c.kPi - atanAngle c y x) := by
  rw [fxAtan2, if_neg (by omega), if_neg (by omega), if_pos hy]

theorem fxAtan2_third (hx : x < 0) (hy : y < 0) :
    fxAtan2 c y x = .ok (s64 c.kPi + atanAngle c y x) := by
  rw [fxAtan2, if_neg (by omega), if_neg (by omega), if_neg (by omega)]

theorem fxAtan2_fourth (hx : 0 < x) (hy : y < 0) : fxAtan2 c y x =
    .ok (if atanAngle c y x = 0 then 0 else s64 c.kTwoPi - atanAngle c y x) := by
  rw [fxAtan2, if_neg (by omega), if_pos hx, if_neg (by omega), ← apply_ite Except.ok]

end arctangent

/-- Settles O43, by the signs of the operands. -/
theorem arctangentResults : Obligations.ArctangentResults := by
  intro s rd rs1 rs2 y x a hy hx angle
  have run := exec_atan2 s rd rs1 rs2
  rw [← hy, ← hx] at run
  have same : atanAngle s.cfg y x = a := angle.symm
  refine ⟨⟨rfl, rfl⟩, ?_, ?_, ?_, ?_, ?_, ?_, ?_⟩
  · rintro rfl up
    rw [← u64_s64 s.cfg.kHalfPi]
    exact wrote_of_exec_deliverOrRaise run (fxAtan2_up up)
  · rintro rfl down
    rw [← u64_s64 s.cfg.kPi, ← u64_s64 s.cfg.kHalfPi, ← u64_add]
    exact wrote_of_exec_deliverOrRaise run (fxAtan2_down down)
  · rintro rfl rfl
    exact raised_of_exec_deliverOrRaise run (fxAtan2_origin _)
  · intro right up
    exact wrote_of_exec_deliverOrRaise run (same ▸ fxAtan2_first right up)
  · intro left up
    exact wrote_of_exec_deliverOrRaise run (same ▸ fxAtan2_second left up)
  · intro left down
    exact wrote_of_exec_deliverOrRaise run (same ▸ fxAtan2_third left down)
  · intro right down
    have written := wrote_of_exec_deliverOrRaise run (same ▸ fxAtan2_fourth right down)
    rwa [apply_ite u64] at written

/-- R148 corner case (i): the first-quadrant angle is at most the last one of the table. -/
theorem atanAngle_between {c : Cfg} (h : MeetsConstraints c) (y x : Int) :
    0 ≤ atanAngle c y x ∧ atanAngle c y x ≤ 511 * s64 c.kHalfPi / 512 := by
  have index : (tanSearch c (atanRatio y x) : Int) ≤ 511 := by
    exact_mod_cast tanSearch_le h (atanRatio y x)
  have quarter := h.halfPi_pos.le
  exact ⟨Int.ediv_nonneg (mul_nonneg (Int.natCast_nonneg _) quarter) (by decide),
    Int.ediv_le_ediv (by decide) (mul_le_mul_of_nonneg_right index quarter)⟩

/-- R148 corner case (i): outside the origin there is a value, and it is in one turn. -/
theorem fxAtan2_in_turn {c : Cfg} {y x : Int} (h : MeetsConstraints c) (off : y ≠ 0 ∨ x ≠ 0) :
    ∃ v, fxAtan2 c y x = .ok v ∧ 0 ≤ v ∧ v < s64 c.kTwoPi := by
  have quarter := h.halfPi_pos
  have three := h.threeQuarters
  have last := h.lastAngle
  have angle := atanAngle_between h y x
  rcases lt_trichotomy x 0 with left | rfl | right
  · rcases lt_or_ge y 0 with down | up
    · exact ⟨_, fxAtan2_third left down, by omega, by omega⟩
    · exact ⟨_, fxAtan2_second left up, by omega, by omega⟩
  · rcases Int.lt_or_gt_of_ne (off.resolve_right (not_not.2 rfl)) with down | up
    · exact ⟨_, fxAtan2_down down, by omega, by omega⟩
    · exact ⟨_, fxAtan2_up up, by omega, by omega⟩
  · rcases lt_or_ge y 0 with down | up
    · refine ⟨_, fxAtan2_fourth right down, ?_⟩
      split <;> omega
    · exact ⟨_, fxAtan2_first right up, by omega, by omega⟩

/-- Settles O44: a value of one turn is read back as it is. -/
theorem arctangentStaysInOneTurn : Obligations.ArctangentStaysInOneTurn := by
  intro s rd rs1 rs2 valid off
  have constraints := meetsConstraints_of_valid valid
  obtain ⟨v, value, low, high⟩ := fxAtan2_in_turn constraints off
  obtain ⟨t, run, wrote⟩ := wrote_of_exec_deliverOrRaise (exec_atan2 s rd rs1 rs2) value
  have turn := constraints.twoPi_lt
  refine ⟨t, u64 v, run, wrote, ?_⟩
  rw [s64_u64 (by omega) (by omega)]
  exact ⟨low, high⟩

/-! ### Degrees to radians (R149) -/

theorem exec_torad (s : State) (rd rs1 : Reg) : exec (.torad rd rs1) s =
    .next (s.deliver rd (u64 (fxToRad s.cfg (s.x rs1))) .ok) := rfl

section radians
variable {turn : Int}

/-- R149: the reduced angle times one turn, shifted, is between 360 turns below 0 and 360 above, since
360.0 times one turn is a whole multiple of 4096. -/
theorem reducedProduct_between (positive : 0 < turn) (d : Int) :
    -(360 * turn) ≤ Int.tmod d 1474560 * turn / 4096 ∧
      Int.tmod d 1474560 * turn / 4096 < 360 * turn := by
  have low : -1474560 * turn ≤ Int.tmod d 1474560 * turn :=
    mul_le_mul_of_nonneg_right (Int.lt_tmod_of_pos d (by decide)).le positive.le
  have high : Int.tmod d 1474560 * turn < 1474560 * turn :=
    mul_lt_mul_of_pos_right (Int.tmod_lt_of_pos d (by decide)) positive
  omega

/-- R149: divided by 360.0 again, the result is within one turn. -/
theorem radians_between {p : Int} (low : -(360 * turn) ≤ p) (high : p < 360 * turn) :
    -turn ≤ Int.tdiv (p * 4096) 1474560 ∧ Int.tdiv (p * 4096) 1474560 < turn := by
  rcases le_total 0 p with nonneg | nonpos
  · rw [Int.tdiv_eq_ediv_of_nonneg (by omega)]
    omega
  · have opposite : p * 4096 = -(-p * 4096) := by ring
    rw [opposite, Int.neg_tdiv, Int.tdiv_eq_ediv_of_nonneg (by omega)]
    omega

end radians

/-- R149: under R216 neither the product nor the quotient is wrapped. -/
theorem u64_fxToRad {c : Cfg} (h : MeetsConstraints c) (d : Int) :
    u64 (fxToRad c d) =
      u64 (Int.tdiv (Int.tmod d 1474560 * s64 c.kTwoPi / 4096 * 4096) 1474560) := by
  have turn := h.twoPi_lt
  obtain ⟨low, high⟩ := reducedProduct_between h.twoPi_pos d
  rw [fxToRad, u64_fxQuotient, fxMul, tmod_eq, fullTurnDegrees, asr_12,
    wrap64, s64_u64 (by omega) (by omega)]

/-- Settles O45, by the bounds of the product and of the quotient. -/
theorem radiansResultWithinOneTurn : Obligations.RadiansResultWithinOneTurn := by
  intro s rd rs1 v valid value
  have constraints := meetsConstraints_of_valid valid
  obtain ⟨low, high⟩ := reducedProduct_between constraints.twoPi_pos (s.x rs1)
  obtain ⟨above, below⟩ := radians_between low high
  have written := wrote_of_exec_deliver (exec_torad s rd rs1)
  rw [u64_fxToRad constraints, ← value] at written
  rw [← value] at above below
  exact ⟨⟨rfl, rfl⟩, above, below, written⟩

end Sys2Proof.Machine
